-- ==== Sys2Proof/Word.lean ====
section
/-!
DEFINITION. The word types of the hardware (spec/00_scope.md R5, R7): bit 0 is the least significant bit, every quantity
is unsigned.
-/

namespace Sys2Proof

/-- A general register, a timer or a memory cell: 8 bits (R5, R21, R26, R29). -/
abbrev Byte := BitVec 8

/-- The program counter, the index register, a stack entry, an instruction word: 16 bits (R5, R23, R24, R25). -/
abbrev Word := BitVec 16

/-- The index of a general register, the fields X and Y of an instruction: 4 bits, every value legal (R21, R71). -/
abbrev RegIdx := BitVec 4

/-- The field N of an instruction: 4 bits (R71). -/
abbrev Nibble := BitVec 4

/-- The field NNN of an instruction: a 12-bit byte address (R71, R72). -/
abbrev Addr12 := BitVec 12

end Sys2Proof
end

