-- ==== Sys2Proof/Config.lean ====
section
/-!
DEFINITION. What the spec leaves to the implementation or the outside: the four decided parameters of spec/00_scope.md R6
(`Settings`), and the free values, each a constant with no body that is applied to a counter held in State.
-/

namespace Sys2Proof

/-- SUBN_ORDER (R6, R128, D7): which operand SUBN subtracts from which. -/
inductive SubnOrder where
  /-- `x[X]` minus `x[Y]`: the default. -/
  | asInput
  /-- `x[Y]` minus `x[X]`: the alternative. -/
  | reversed
  deriving DecidableEq, Repr

/-- SHIFT_SOURCE (R6, R129, R130, D8): which register SHR and SHL take their operand from. -/
inductive ShiftSource where
  /-- `x[X]`, in place: the default. -/
  | fromX
  /-- `x[Y]`: the alternative. -/
  | fromY
  deriving DecidableEq, Repr

/-- KEYWAIT_TIMERS (R6, R174, D16): what the timers do in a poll of the key wait that sees no key. -/
inductive KeywaitTimers where
  /-- They hold: the default. -/
  | suspended
  /-- They tick once per poll: the alternative. -/
  | running
  deriving DecidableEq, Repr

/-- KEYWAIT_PICK (R6, R173, D16): which key LD Vx,K stores when several are down. -/
inductive KeywaitPick where
  /-- The lowest pressed index: the default. -/
  | lowest
  /-- A free draw among the pressed keys: the alternative. -/
  | drawn
  deriving DecidableEq, Repr

/-- The decided parameters of R6. State holds them, so that a statement about every state holds for every choice, and no
step changes them (log entry 5). -/
structure Settings where
  subnOrder     : SubnOrder
  shiftSource   : ShiftSource
  keywaitTimers : KeywaitTimers
  keywaitPick   : KeywaitPick
  deriving DecidableEq, Repr

/-- The defaults of R6. -/
def Settings.default : Settings where
  subnOrder     := .asInput
  shiftSource   := .fromX
  keywaitTimers := .suspended
  keywaitPick   := .lowest

/-! ## Free values

None has a body: nothing can be proved of them but what holds for any value. The argument is the counter `fresh` of State. -/

/-- The input KEYS at a sampling the host has not fixed beforehand (R6, R27; log entry 2). -/
opaque Config.freeKeys : Nat → Word

/-- The input RND at a draw the host has not fixed beforehand (R6, R142; log entry 3). -/
opaque Config.freeRnd : Nat → Byte

/-- The draw of KEYWAIT_PICK = drawn: its remainder by the number of pressed keys selects one of them (R173; log entry 6). -/
opaque Config.freePick : Nat → Nat

/-! State after a fatal error: "every other piece of state ... is unspecified" (R187, U2; log entry 1). -/

/-- General register `r` after a fatal error. -/
opaque Config.faultedReg (n r : Nat) : Byte
/-- The program counter after a fatal error. -/
opaque Config.faultedPc (n : Nat) : Word
/-- The index register after a fatal error. -/
opaque Config.faultedIndex (n : Nat) : Word
/-- Stack entry `k` after a fatal error. -/
opaque Config.faultedStack (n k : Nat) : Word
/-- The stack pointer after a fatal error. -/
opaque Config.faultedSp (n : Nat) : Fin 17
/-- The delay timer after a fatal error. -/
opaque Config.faultedDt (n : Nat) : Byte
/-- The sound timer after a fatal error. -/
opaque Config.faultedSt (n : Nat) : Byte
/-- The keypad latch after a fatal error. -/
opaque Config.faultedKey (n : Nat) : Word
/-- The pixel at row `r` and column `c` after a fatal error. -/
opaque Config.faultedPixel (n r c : Nat) : Bool
/-- The memory byte at address `a` after a fatal error. -/
opaque Config.faultedByte (n a : Nat) : Byte

end Sys2Proof
end

