-- ==== Sys2Proof/Machine/State.lean ====
section
/-!
DEFINITION. The machine's state as plain data (spec/10_state.md R20 to R31), its reset value (R35), and the reasons a step
can stop.
-/

namespace Sys2Proof.Machine

/-- The five fatal errors (R180): the complete list. -/
inductive ErrorKind where
  | unimplementedOpcode
  | stackOverflow
  | stackUnderflow
  | outOfBoundsAccess
  | programTooLarge
  deriving DecidableEq, Repr

/-- What `raise E(info)` carries: the error and its info word (R182, R185). -/
structure FatalError where
  kind : ErrorKind
  info : Word
  deriving DecidableEq, Repr

/-- The controller state (R30). -/
inductive Run where
  | running
  /-- A suspended LD Vx,K; `r` is the destination register (R94). -/
  | waitKey (r : RegIdx)
  | halted
  | faulted (e : ErrorKind)
  deriving DecidableEq, Repr

/-- The fault register (R31). -/
structure FaultReg where
  code : BitVec 3
  info : Word
  deriving DecidableEq, Repr

/-- Memory: the listed bytes, addresses strictly rising, none equal to what an unlisted address reads as (R29, R50). -/
abbrev Memory := List Host.Cell

/-- The display buffer: 32 rows of 64 pixels (R28). -/
abbrev Display := Vector (Vector Bool 64) 32

/-- The machine. The first thirteen fields are the whole architectural state of R20. -/
structure State where
  /-- General registers; x[15] is the flag (R21, R22). -/
  x       : Vector Byte 16
  /-- Program counter (R23). -/
  pc      : Word
  /-- Index register `I` (R24). -/
  index   : Word
  /-- Call stack entries; `stack[0]` is the oldest (R25). -/
  stack   : Vector Word 16
  /-- Number of valid stack entries, 0 to 16 (R25). -/
  sp      : Fin 17
  /-- Delay timer (R26). -/
  dt      : Byte
  /-- Sound timer (R26). -/
  st      : Byte
  /-- Keypad latch: bit k is key k, 1 is pressed (R27). -/
  key     : Word
  /-- Display buffer (R28). -/
  disp    : Display
  /-- Main memory (R29). -/
  mem     : Memory
  /-- Controller state (R30). -/
  run     : Run
  /-- Fault register (R31). -/
  fault   : FaultReg
  /-- The output `display_updated` in the step that led to this state (R32, R154; the model holds it: log entry 7). -/
  displayUpdated : Bool
  /-- The decided parameters of R6; no step changes them (log entry 5). -/
  settings : Settings
  /-- MODEL'S OWN: the next values of the input KEYS the host has fixed, first to be sampled first (log entry 2). -/
  keysIn  : List Word
  /-- MODEL'S OWN: the next values of the input RND the host has fixed, first to be drawn first (log entry 3). -/
  rndIn   : List Byte
  /-- MODEL'S OWN: the number of free values drawn so far (log entry 4). -/
  fresh   : Nat
  deriving DecidableEq, Repr

/-- The machine right after reset (R35, R200, R201): all-zero state except `pc` = 0x200, nothing loaded. -/
def State.reset : State where
  x       := Vector.replicate 16 0
  pc      := 0x200
  index   := 0
  stack   := Vector.replicate 16 0
  sp      := 0
  dt      := 0
  st      := 0
  key     := 0
  disp    := Vector.replicate 32 (Vector.replicate 64 false)
  mem     := []
  run     := .running
  fault   := ⟨0, 0⟩
  displayUpdated := false
  settings := Settings.default
  keysIn  := []
  rndIn   := []
  fresh   := 0

/-- Reasons a step stops outside the machine's own state. There is none: each of the spec's fatal errors has an entry that
the spec describes (R185), so it is taken as a next state whose `run` is Faulted (log entries 1 and 19). Nobody raises one,
which is safe. -/
inductive Fault where
  deriving DecidableEq, Repr

/-- Reasons the model has no meaning for an instruction. -/
inductive Refusal where
  /-- Answered by an arm of `exec` for an instruction without a meaning: no arm is left that does. Safe: the model stops
  where the hardware goes on. -/
  | notModelled (mnemonic : String)
  deriving DecidableEq, Repr

/-- What one step answers. -/
abbrev Result := Host.Outcome State Fault Refusal

end Sys2Proof.Machine
end

