-- ==== Sys2Proof/Machine/Ops.lean ====
section
/-!
DEFINITION. The named operations over the machine's state: memory, registers, the program counter, the stack, the inputs,
and taking a fatal error, which is this hardware's one exception entry (spec/60_exceptions.md R185). Nothing returns from one
(R186).
-/

namespace Sys2Proof.Machine

/-! ## Memory (spec/20_memory.md) -/

/-- What an address nothing has written reads as: memory is all zero at reset, and what no image covers stays zero (R35, D29;
log entry 8). -/
def unlistedByte : Byte := 0

/-- MEM_SIZE (R5): addresses 0x000 to 0xFFF exist. -/
def memSize : Nat := 4096

/-- The byte at an address. -/
def Memory.read : Memory → Nat → Byte
  | [], _ => unlistedByte
  | (k, v) :: m, a => if k = a then v else Memory.read m a

/-- The memory without an entry for the address. -/
def Memory.erase : Memory → Nat → Memory
  | [], _ => []
  | (k, v) :: m, a => if k = a then Memory.erase m a else (k, v) :: Memory.erase m a

/-- The memory with an entry put before the first higher address. -/
def Memory.insert : Memory → Nat → Byte → Memory
  | [], a, b => [(a, b)]
  | (k, v) :: m, a, b => if a < k then (a, b) :: (k, v) :: m else (k, v) :: Memory.insert m a b

/-- The memory with the byte at one address replaced, in canonical form again. -/
def Memory.write (m : Memory) (a : Nat) (b : Byte) : Memory :=
  if b = unlistedByte then Memory.erase m a else Memory.insert (Memory.erase m a) a b

/-- The canonical form from an address on: addresses rise, all exist, and no entry equals what an unlisted address reads as. -/
def Memory.wfFrom : Nat → Memory → Bool
  | _, [] => true
  | lo, (k, v) :: m => decide (lo ≤ k) && decide (k < memSize) && v != unlistedByte && Memory.wfFrom (k + 1) m

/-- The canonical form. -/
def Memory.wf (m : Memory) : Bool := Memory.wfFrom 0 m

/-- The canonical memory that holds `f a` at every address (irreducible: nothing is gained by unfolding 4096 free bytes). -/
@[irreducible] def Memory.tabulate (f : Nat → Byte) : Memory :=
  (List.range memSize).filterMap fun a => if f a = unlistedByte then none else some (a, f a)

/-! ## Taking a fatal error (R180 to R187) -/

/-- The numeric code of an error (R180, R31). -/
def errorCode : ErrorKind → BitVec 3
  | .unimplementedOpcode => 1
  | .stackOverflow       => 2
  | .stackUnderflow      => 3
  | .outOfBoundsAccess   => 4
  | .programTooLarge     => 5

/-- `raise E(info)` (R185): `run` becomes Faulted(E) and `fault` holds its code and info. Every other piece of the machine's
state is unspecified afterwards (R187), so each is a free value; memory stays in canonical form. Settings and inputs are not
the machine's state and stay (log entry 1). The step executed no drawing to completion, so the output pulse is 0 (R154). -/
def raise (e : FatalError) (s : State) : State where
  x       := Vector.ofFn fun r => Config.faultedReg s.fresh r.val
  pc      := Config.faultedPc s.fresh
  index   := Config.faultedIndex s.fresh
  stack   := Vector.ofFn fun k => Config.faultedStack s.fresh k.val
  sp      := Config.faultedSp s.fresh
  dt      := Config.faultedDt s.fresh
  st      := Config.faultedSt s.fresh
  key     := Config.faultedKey s.fresh
  disp    := Vector.ofFn fun r => Vector.ofFn fun c => Config.faultedPixel s.fresh r.val c.val
  mem     := Memory.tabulate (Config.faultedByte s.fresh)
  run     := .faulted e.kind
  fault   := ⟨errorCode e.kind, e.info⟩
  displayUpdated := false
  settings := s.settings
  keysIn  := s.keysIn
  rndIn   := s.rndIn
  fresh   := s.fresh + 1

/-- The end of a rule that may have raised: the state it reached, or the error taken (R8, "the step ends at once"). -/
def orRaise (s : State) : Except FatalError State → Result
  | .ok t    => .next t
  | .error e => .next (raise e s)

/-- The error of an access outside memory: its info is the low 16 bits of the address (R52, R182). -/
def outOfBounds (a : Nat) : FatalError := ⟨.outOfBoundsAccess, BitVec.ofNat 16 a⟩

/-! ## Memory accesses (R8, R52, R53) -/

/-- `MemRead(addr, 1)`: the address is a mathematical integer and does not wrap (R52). -/
def memRead (s : State) (a : Nat) : Except FatalError Byte :=
  if a < memSize then .ok (s.mem.read a) else .error (outOfBounds a)

/-- The memory replaced. -/
def State.setMem (s : State) (m : Memory) : State := { s with mem := m }

/-- `MemWrite(addr, 1, v)` (R52). -/
def memWrite (s : State) (a : Nat) (b : Byte) : Except FatalError State :=
  if a < memSize then .ok (s.setMem (s.mem.write a b)) else .error (outOfBounds a)

/-- `n` bytes read at ascending addresses, stopping at the first address out of range (R53). -/
def readBytes (s : State) (a : Nat) : Nat → Except FatalError (List Byte)
  | 0 => .ok []
  | n + 1 =>
    match memRead s a with
    | .error e => .error e
    | .ok b =>
      match readBytes s (a + 1) n with
      | .error e => .error e
      | .ok bs   => .ok (b :: bs)

/-- Bytes written at ascending addresses, stopping at the first address out of range (R53). -/
def writeBytes (s : State) (a : Nat) : List Byte → Except FatalError State
  | [] => .ok s
  | b :: bs =>
    match memWrite s a b with
    | .error e => .error e
    | .ok t    => writeBytes t (a + 1) bs

/-! ## Registers (R21 to R26) -/

/-- `x[r]`. No register is hardwired (R21). -/
def State.reg (s : State) (r : RegIdx) : Byte := s.x[r.toNat]'(by have := r.isLt; omega)

/-- `x[r] <- v`. -/
def State.setReg (s : State) (r : RegIdx) (v : Byte) : State :=
  { s with x := s.x.set r.toNat v (by have := r.isLt; omega) }

/-- `pc <- t`. -/
def State.setPc (s : State) (t : Word) : State := { s with pc := t }

/-- `I <- v`. -/
def State.setIndex (s : State) (v : Word) : State := { s with index := v }

/-- `DT <- v`. -/
def State.setDt (s : State) (v : Byte) : State := { s with dt := v }

/-- `ST <- v`. -/
def State.setSt (s : State) (v : Byte) : State := { s with st := v }

/-- `run <- r`. -/
def State.setRun (s : State) (r : Run) : State := { s with run := r }

/-- The registers from `i` on receive the bytes in order (the loop of R166). -/
def State.setRegsFrom (s : State) : Nat → List Byte → State
  | _, [] => s
  | i, b :: bs => (s.setReg (BitVec.ofNat 4 i) b).setRegsFrom (i + 1) bs

/-- `skip`: one more instruction width, two bytes (R8, R108). -/
def State.skip (s : State) : State := s.setPc (s.pc + 2)

/-- The conditional skip: nothing changes when the condition does not hold (R108). -/
def State.skipIf (s : State) (c : Bool) : State := if c then s.skip else s

/-! ## The call stack (R25) -/

/-- The stack pointer replaced. -/
def State.setSp (s : State) (n : Fin 17) : State := { s with sp := n }

/-- The stack entries replaced. -/
def State.setStack (s : State) (v : Vector Word 16) : State := { s with stack := v }

/-- `stack[sp] <- v; sp <- sp + 1`, or nothing when all 16 entries are in use (R101). -/
def State.push (s : State) (v : Word) : Option State :=
  if h : s.sp.val < 16 then some ((s.setStack (s.stack.set s.sp.val v h)).setSp ⟨s.sp.val + 1, by omega⟩)
  else none

/-- `sp <- sp - 1` and the entry there, or nothing when the stack is empty; the entry keeps its contents (R100). -/
def State.pop (s : State) : Option (Word × State) :=
  if h : 0 < s.sp.val then
    some (s.stack[s.sp.val - 1]'(by have := s.sp.isLt; omega),
          s.setSp ⟨s.sp.val - 1, by have := s.sp.isLt; omega⟩)
  else none

/-! ## Inputs (R27, R32, R142) -/

/-- The counter of free values set. -/
def State.setFresh (s : State) (n : Nat) : State := { s with fresh := n }

/-- `key[15:0] <- KEYS`: the next value the host has fixed, or else a free one (log entry 2). -/
def sampleKeys (s : State) : State :=
  match s.keysIn with
  | k :: rest => { s with key := k, keysIn := rest }
  | []        => { s with key := Config.freeKeys s.fresh, fresh := s.fresh + 1 }

/-- `draw_rnd()`: the next value the host has fixed, or else a free one (log entry 3). -/
def drawRnd (s : State) : Byte × State :=
  match s.rndIn with
  | r :: rest => (r, { s with rndIn := rest })
  | []        => (Config.freeRnd s.fresh, s.setFresh (s.fresh + 1))

/-- The pressed keys of a latch value, lowest index first (R27). -/
def pressedKeys (key : Word) : List Nat := (List.range 16).filter key.getLsbD

/-- The key LD Vx,K stores, if one is down: the lowest, or with KEYWAIT_PICK = drawn a free choice among those down (R173,
D16; log entry 6). -/
def pickKey (s : State) : Option (Nat × State) :=
  match pressedKeys s.key with
  | [] => none
  | k :: ks =>
    match s.settings.keywaitPick with
    | .lowest => some (k, s)
    | .drawn  => some ((k :: ks).getD (Config.freePick s.fresh % (k :: ks).length) k, s.setFresh (s.fresh + 1))

/-- The pressed key stored in the destination register, if a key is down (line 3 of R94, first case of R173). -/
def storePressedKey (r : RegIdx) (s : State) : Option State :=
  match pickKey s with
  | none        => none
  | some (k, t) => some (t.setReg r (BitVec.ofNat 8 k))

end Sys2Proof.Machine
end

