-- ==== Sys2Proof/Machine/Flags.lean ====
section
/-!
DEFINITION. The flag computations (spec/42_alu.md R126 to R133): `x[15]` is the only flag, a flag-writing instruction writes
exactly 0 or 1 to it (R22), and it writes it last (R132).
-/

namespace Sys2Proof.Machine

/-- FLAG_REG (R5, R22). -/
def flagReg : RegIdx := 15

/-- The flag value of a condition (R22). -/
def flagOf (c : Bool) : Byte := if c then 1 else 0

/-- Carry of an addition (R131): 1 iff a + b >= 256. -/
def carryFlag (a b : Byte) : Byte := flagOf (decide (256 ≤ a.toNat + b.toNat))

/-- No borrow, SUB's sense (R127): 1 iff a >= b. -/
def noBorrowFlag (a b : Byte) : Byte := flagOf (decide (b.toNat ≤ a.toNat))

/-- Borrow, SUBN's sense (R128): 1 iff a < b. -/
def borrowFlag (a b : Byte) : Byte := flagOf (decide (a.toNat < b.toNat))

/-- The bit a right shift moves out (R129). -/
def shiftedOutRight (a : Byte) : Byte := flagOf (a.getLsbD 0)

/-- The bit a left shift moves out (R130). -/
def shiftedOutLeft (a : Byte) : Byte := flagOf (a.getLsbD 7)

/-- `x[15] <- v`. -/
def State.setFlag (s : State) (v : Byte) : State := s.setReg flagReg v

/-- The result to `x[X]`, then the flag to `x[15]`: with X = 15 the flag stays (R132; log entry 12). -/
def writeResultThenFlag (s : State) (x : RegIdx) (result flag : Byte) : State := (s.setReg x result).setFlag flag

end Sys2Proof.Machine
end

