-- ==== Sys2Proof/Syntax.lean ====
section
/-!
DEFINITION. The instructions: one constructor per row of spec/opcode_table.json, in the order of spec/30_encoding.md R75. A
field of an instruction has the type of its field in the word, so every operand value a constructor can hold is one the
encoding admits (R72).
-/

namespace Sys2Proof

/-- The 35 operations of R75. -/
inductive Instr where
  /-- 0000 HALT, the sentinel (R91). -/
  | halt
  /-- 00E0 CLS (R150). -/
  | cls
  /-- 00EE RET (R100). -/
  | ret
  /-- 1NNN JP NNN (R102). -/
  | jp (nnn : Addr12)
  /-- 2NNN CALL NNN (R101). -/
  | call (nnn : Addr12)
  /-- 3XNN SE Vx, NN (R104). -/
  | seImm (x : RegIdx) (nn : Byte)
  /-- 4XNN SNE Vx, NN (R105). -/
  | sneImm (x : RegIdx) (nn : Byte)
  /-- 5XY0 SE Vx, Vy (R106). -/
  | seReg (x y : RegIdx)
  /-- 6XNN LD Vx, NN (R120). -/
  | ldImm (x : RegIdx) (nn : Byte)
  /-- 7XNN ADD Vx, NN (R122). -/
  | addImm (x : RegIdx) (nn : Byte)
  /-- 8XY0 LD Vx, Vy (R121). -/
  | ldReg (x y : RegIdx)
  /-- 8XY1 OR Vx, Vy (R123). -/
  | orReg (x y : RegIdx)
  /-- 8XY2 AND Vx, Vy (R124). -/
  | andReg (x y : RegIdx)
  /-- 8XY3 XOR Vx, Vy (R125). -/
  | xorReg (x y : RegIdx)
  /-- 8XY4 ADD Vx, Vy (R126). -/
  | addReg (x y : RegIdx)
  /-- 8XY5 SUB Vx, Vy (R127). -/
  | subReg (x y : RegIdx)
  /-- 8XY6 SHR Vx; the field Y is kept (R79, R129). -/
  | shr (x y : RegIdx)
  /-- 8XY7 SUBN Vx, Vy (R128). -/
  | subn (x y : RegIdx)
  /-- 8XYE SHL Vx; the field Y is kept (R79, R130). -/
  | shl (x y : RegIdx)
  /-- 9XY0 SNE Vx, Vy (R107). -/
  | sneReg (x y : RegIdx)
  /-- ANNN LD I, NNN (R160). -/
  | ldI (nnn : Addr12)
  /-- BNNN JP V0, NNN (R103). -/
  | jpV0 (nnn : Addr12)
  /-- CXNN RND Vx, NN (R142). -/
  | rnd (x : RegIdx) (nn : Byte)
  /-- DXYN DRW Vx, Vy, N (R151). -/
  | drw (x y : RegIdx) (n : Nibble)
  /-- EX9E SKP Vx (R140). -/
  | skp (x : RegIdx)
  /-- EXA1 SKNP Vx (R141). -/
  | sknp (x : RegIdx)
  /-- FX07 LD Vx, DT (R170). -/
  | ldVxDt (x : RegIdx)
  /-- FX0A LD Vx, K (R173). -/
  | ldVxK (x : RegIdx)
  /-- FX15 LD DT, Vx (R171). -/
  | ldDtVx (x : RegIdx)
  /-- FX18 LD ST, Vx (R172). -/
  | ldStVx (x : RegIdx)
  /-- FX1E ADD I, Vx (R161). -/
  | addI (x : RegIdx)
  /-- FX29 LD F, Vx (R162). -/
  | ldF (x : RegIdx)
  /-- FX33 LD B, Vx (R164). -/
  | ldB (x : RegIdx)
  /-- FX55 LD [I], Vx (R165). -/
  | dumpRegs (x : RegIdx)
  /-- FX65 LD Vx, [I] (R166). -/
  | loadRegs (x : RegIdx)
  deriving DecidableEq, Repr

/-- The row's mnemonic as spec/opcode_table.json spells it. -/
def Instr.mnemonic : Instr → String
  | .halt         => "HALT"
  | .cls          => "CLS"
  | .ret          => "RET"
  | .jp _         => "JP_NNN"
  | .call _       => "CALL_NNN"
  | .seImm _ _    => "SE_Vx__NN"
  | .sneImm _ _   => "SNE_Vx__NN"
  | .seReg _ _    => "SE_Vx__Vy"
  | .ldImm _ _    => "LD_Vx__NN"
  | .addImm _ _   => "ADD_Vx__NN"
  | .ldReg _ _    => "LD_Vx__Vy"
  | .orReg _ _    => "OR_Vx__Vy"
  | .andReg _ _   => "AND_Vx__Vy"
  | .xorReg _ _   => "XOR_Vx__Vy"
  | .addReg _ _   => "ADD_Vx__Vy"
  | .subReg _ _   => "SUB_Vx__Vy"
  | .shr _ _      => "SHR_Vx"
  | .subn _ _     => "SUBN_Vx__Vy"
  | .shl _ _      => "SHL_Vx"
  | .sneReg _ _   => "SNE_Vx__Vy"
  | .ldI _        => "LD_I__NNN"
  | .jpV0 _       => "JP_V0__NNN"
  | .rnd _ _      => "RND_Vx__NN"
  | .drw _ _ _    => "DRW_Vx__Vy__N"
  | .skp _        => "SKP_Vx"
  | .sknp _       => "SKNP_Vx"
  | .ldVxDt _     => "LD_Vx__DT"
  | .ldVxK _      => "LD_Vx__K"
  | .ldDtVx _     => "LD_DT__Vx"
  | .ldStVx _     => "LD_ST__Vx"
  | .addI _       => "ADD_I__Vx"
  | .ldF _        => "LD_F__Vx"
  | .ldB _        => "LD_B__Vx"
  | .dumpRegs _   => "LD__I___Vx"
  | .loadRegs _   => "LD_Vx___I"

end Sys2Proof
end

