-- ==== Sys2Proof/WellFormed.lean ====
section
/-!
DEFINITION. What must be checked. Every term of `Instr` is well-formed: each operand has the type of its field and the spec
admits every value of it (spec/10_state.md R21, spec/30_encoding.md R72), so `Instr` needs no check of its own. What can be
ill-formed is a raw word, which may select no row of the opcode map (R75, R77), and a program image, which may be too long
(spec/70_reset_and_hazards.md R203).
-/

namespace Sys2Proof

/-- One row of the opcode map: a word w selects it when (w AND mask) = value (R75). -/
structure OpcodeRow where
  mask     : Word
  value    : Word
  mnemonic : String
  deriving DecidableEq, Repr

/-- Rows 1 to 20 of R75. -/
def opcodeRowsLow : List OpcodeRow :=
  [⟨0xFFFF, 0x0000, "HALT"⟩, ⟨0xFFFF, 0x00E0, "CLS"⟩, ⟨0xFFFF, 0x00EE, "RET"⟩,
   ⟨0xF000, 0x1000, "JP_NNN"⟩, ⟨0xF000, 0x2000, "CALL_NNN"⟩, ⟨0xF000, 0x3000, "SE_Vx__NN"⟩,
   ⟨0xF000, 0x4000, "SNE_Vx__NN"⟩, ⟨0xF00F, 0x5000, "SE_Vx__Vy"⟩, ⟨0xF000, 0x6000, "LD_Vx__NN"⟩,
   ⟨0xF000, 0x7000, "ADD_Vx__NN"⟩, ⟨0xF00F, 0x8000, "LD_Vx__Vy"⟩, ⟨0xF00F, 0x8001, "OR_Vx__Vy"⟩,
   ⟨0xF00F, 0x8002, "AND_Vx__Vy"⟩, ⟨0xF00F, 0x8003, "XOR_Vx__Vy"⟩, ⟨0xF00F, 0x8004, "ADD_Vx__Vy"⟩,
   ⟨0xF00F, 0x8005, "SUB_Vx__Vy"⟩, ⟨0xF00F, 0x8006, "SHR_Vx"⟩, ⟨0xF00F, 0x8007, "SUBN_Vx__Vy"⟩,
   ⟨0xF00F, 0x800E, "SHL_Vx"⟩, ⟨0xF00F, 0x9000, "SNE_Vx__Vy"⟩]

/-- Rows 21 to 35 of R75. -/
def opcodeRowsHigh : List OpcodeRow :=
  [⟨0xF000, 0xA000, "LD_I__NNN"⟩, ⟨0xF000, 0xB000, "JP_V0__NNN"⟩, ⟨0xF000, 0xC000, "RND_Vx__NN"⟩,
   ⟨0xF000, 0xD000, "DRW_Vx__Vy__N"⟩, ⟨0xF0FF, 0xE09E, "SKP_Vx"⟩, ⟨0xF0FF, 0xE0A1, "SKNP_Vx"⟩,
   ⟨0xF0FF, 0xF007, "LD_Vx__DT"⟩, ⟨0xF0FF, 0xF00A, "LD_Vx__K"⟩, ⟨0xF0FF, 0xF015, "LD_DT__Vx"⟩,
   ⟨0xF0FF, 0xF018, "LD_ST__Vx"⟩, ⟨0xF0FF, 0xF01E, "ADD_I__Vx"⟩, ⟨0xF0FF, 0xF029, "LD_F__Vx"⟩,
   ⟨0xF0FF, 0xF033, "LD_B__Vx"⟩, ⟨0xF0FF, 0xF055, "LD__I___Vx"⟩, ⟨0xF0FF, 0xF065, "LD_Vx___I"⟩]

/-- The opcode map of R75, as masks and values: a second account of the encodings, independent of the decoder. -/
def opcodeMap : List OpcodeRow := opcodeRowsLow ++ opcodeRowsHigh

/-- The row selects the word. -/
def OpcodeRow.selects (row : OpcodeRow) (w : Word) : Bool := w &&& row.mask == row.value

/-- The word is implemented: some row of R75 selects it. Every other word is unimplemented and fatal (R77, R78). -/
def wordImplemented (w : Word) : Bool := opcodeMap.any (·.selects w)

/-- No word selects both rows: their values differ in a bit that both masks fix (R75, "No two rows overlap"). -/
def OpcodeRow.apart (r r' : OpcodeRow) : Bool := r.value &&& r'.mask != r'.value &&& r.mask

/-- MAX_PROGRAM of R5: 4096 − 0x200 bytes. -/
def maxProgram : Nat := 3584

/-- The program image fits (R203). -/
def imageFits (image : List Byte) : Bool := image.length ≤ maxProgram

end Sys2Proof
end

