-- ==== Sys2Proof/Decode.lean ====
section
/-!
DEFINITION. The decoder (spec/30_encoding.md R70 to R80), total on every word and every byte list, and after it the encoder
(R83). The bit patterns other than 0x0000, and the order of the two bytes, are general knowledge the spec admits (R54, R75,
D1, D2; log entry 11).
-/

namespace Sys2Proof

/-! ## Fields (R71) -/

/-- `class` = w[15:12]. -/
def fieldClass (w : Word) : Nibble := w.extractLsb' 12 4
/-- `X` = w[11:8]. -/
def fieldX (w : Word) : RegIdx := w.extractLsb' 8 4
/-- `Y` = w[7:4]. -/
def fieldY (w : Word) : RegIdx := w.extractLsb' 4 4
/-- `N` = w[3:0]. -/
def fieldN (w : Word) : Nibble := w.extractLsb' 0 4
/-- `NNN` = w[11:0]. -/
def fieldNNN (w : Word) : Addr12 := w.extractLsb' 0 12
/-- `NN` = w[7:0]. -/
def fieldNN (w : Word) : Byte := w.extractLsb' 0 8

/-- The word of two bytes: the byte at the lower address is the high byte (R54). -/
def joinBytes (hi lo : Byte) : Word := hi ++ lo
/-- The byte of a word stored at the lower address (R54, R83). -/
def highByte (w : Word) : Byte := w.extractLsb' 8 8
/-- The byte of a word stored at the higher address (R54, R83). -/
def lowByte (w : Word) : Byte := w.extractLsb' 0 8

/-! ## The decoder -/

/-- Why the decoder gives no instruction. -/
inductive DecodeError where
  /-- The word matches no row of R75 (R77): the controller raises UnimplementedOpcode(w). -/
  | unimplemented (w : Word)
  /-- Fewer than two bytes were given: no word. -/
  | truncated
  deriving DecidableEq, Repr

/-- The words of class 0 (rows 1 to 3 of R75). -/
def decodeClass0 (w : Word) : Except DecodeError Instr :=
  if w = 0x0000 then .ok .halt
  else if w = 0x00E0 then .ok .cls
  else if w = 0x00EE then .ok .ret
  else .error (.unimplemented w)

/-- The words of class 8, selected by N (rows 11 to 19 of R75). -/
def decodeClass8 (w : Word) : Except DecodeError Instr :=
  let x := fieldX w
  let y := fieldY w
  match (fieldN w).toNat with
  | 0x0 => .ok (.ldReg x y)
  | 0x1 => .ok (.orReg x y)
  | 0x2 => .ok (.andReg x y)
  | 0x3 => .ok (.xorReg x y)
  | 0x4 => .ok (.addReg x y)
  | 0x5 => .ok (.subReg x y)
  | 0x6 => .ok (.shr x y)
  | 0x7 => .ok (.subn x y)
  | 0xE => .ok (.shl x y)
  | _   => .error (.unimplemented w)

/-- The words of class E, selected by NN (rows 25 and 26 of R75). -/
def decodeClassE (w : Word) : Except DecodeError Instr :=
  match (fieldNN w).toNat with
  | 0x9E => .ok (.skp (fieldX w))
  | 0xA1 => .ok (.sknp (fieldX w))
  | _    => .error (.unimplemented w)

/-- The words of class F, selected by NN (rows 27 to 35 of R75). -/
def decodeClassF (w : Word) : Except DecodeError Instr :=
  let x := fieldX w
  match (fieldNN w).toNat with
  | 0x07 => .ok (.ldVxDt x)
  | 0x0A => .ok (.ldVxK x)
  | 0x15 => .ok (.ldDtVx x)
  | 0x18 => .ok (.ldStVx x)
  | 0x1E => .ok (.addI x)
  | 0x29 => .ok (.ldF x)
  | 0x33 => .ok (.ldB x)
  | 0x55 => .ok (.dumpRegs x)
  | 0x65 => .ok (.loadRegs x)
  | _    => .error (.unimplemented w)

/-- `op(w)` of R73 and R75, on one word: total, no state. 0x0000 is HALT and is never unimplemented (R76). -/
def decodeWord (w : Word) : Except DecodeError Instr :=
  match (fieldClass w).toNat with
  | 0x0 => decodeClass0 w
  | 0x1 => .ok (.jp (fieldNNN w))
  | 0x2 => .ok (.call (fieldNNN w))
  | 0x3 => .ok (.seImm (fieldX w) (fieldNN w))
  | 0x4 => .ok (.sneImm (fieldX w) (fieldNN w))
  | 0x5 => if fieldN w = 0 then .ok (.seReg (fieldX w) (fieldY w)) else .error (.unimplemented w)
  | 0x6 => .ok (.ldImm (fieldX w) (fieldNN w))
  | 0x7 => .ok (.addImm (fieldX w) (fieldNN w))
  | 0x8 => decodeClass8 w
  | 0x9 => if fieldN w = 0 then .ok (.sneReg (fieldX w) (fieldY w)) else .error (.unimplemented w)
  | 0xA => .ok (.ldI (fieldNNN w))
  | 0xB => .ok (.jpV0 (fieldNNN w))
  | 0xC => .ok (.rnd (fieldX w) (fieldNN w))
  | 0xD => .ok (.drw (fieldX w) (fieldY w) (fieldN w))
  | 0xE => decodeClassE w
  | _   => decodeClassF w

/-- The decoder on bytes in address order: the instruction and the bytes after it. Every instruction is two bytes (R70,
R80). -/
def decodeBytes : List Byte → Except DecodeError (Instr × List Byte)
  | hi :: lo :: rest => (decodeWord (joinBytes hi lo)).map (·, rest)
  | _                => .error .truncated

/-- The decoder on a word numbered as spec/opcode_table.json numbers it; the one length is 16 bits (R70), and bits above
`nbits` are 0. -/
def decodeTableWord (nbits w : Nat) : Option Instr :=
  let word : Word := BitVec.ofNat 16 (w % 2 ^ nbits)
  match decodeBytes [highByte word, lowByte word] with
  | .ok (i, _) => some i
  | .error _   => none

/-! ## The encoder (R83) -/

/-- Format A: class, NNN. -/
def wordA (c : Nibble) (nnn : Addr12) : Word := c ++ nnn
/-- Format XI: class, X, NN. It also serves format XS, whose NN is the fixed sub-opcode. -/
def wordXI (c : Nibble) (x : RegIdx) (nn : Byte) : Word := c ++ (x ++ nn)
/-- Format XYN: class, X, Y, N. It also serves format XY, whose N is the fixed sub-opcode. -/
def wordXYN (c : Nibble) (x y : RegIdx) (n : Nibble) : Word := c ++ (x ++ (y ++ n))

/-- The word of an instruction (R75, R83). -/
def encode : Instr → Word
  | .halt         => 0x0000
  | .cls          => 0x00E0
  | .ret          => 0x00EE
  | .jp nnn       => wordA 0x1 nnn
  | .call nnn     => wordA 0x2 nnn
  | .seImm x nn   => wordXI 0x3 x nn
  | .sneImm x nn  => wordXI 0x4 x nn
  | .seReg x y    => wordXYN 0x5 x y 0x0
  | .ldImm x nn   => wordXI 0x6 x nn
  | .addImm x nn  => wordXI 0x7 x nn
  | .ldReg x y    => wordXYN 0x8 x y 0x0
  | .orReg x y    => wordXYN 0x8 x y 0x1
  | .andReg x y   => wordXYN 0x8 x y 0x2
  | .xorReg x y   => wordXYN 0x8 x y 0x3
  | .addReg x y   => wordXYN 0x8 x y 0x4
  | .subReg x y   => wordXYN 0x8 x y 0x5
  | .shr x y      => wordXYN 0x8 x y 0x6
  | .subn x y     => wordXYN 0x8 x y 0x7
  | .shl x y      => wordXYN 0x8 x y 0xE
  | .sneReg x y   => wordXYN 0x9 x y 0x0
  | .ldI nnn      => wordA 0xA nnn
  | .jpV0 nnn     => wordA 0xB nnn
  | .rnd x nn     => wordXI 0xC x nn
  | .drw x y n    => wordXYN 0xD x y n
  | .skp x        => wordXI 0xE x 0x9E
  | .sknp x       => wordXI 0xE x 0xA1
  | .ldVxDt x     => wordXI 0xF x 0x07
  | .ldVxK x      => wordXI 0xF x 0x0A
  | .ldDtVx x     => wordXI 0xF x 0x15
  | .ldStVx x     => wordXI 0xF x 0x18
  | .addI x       => wordXI 0xF x 0x1E
  | .ldF x        => wordXI 0xF x 0x29
  | .ldB x        => wordXI 0xF x 0x33
  | .dumpRegs x   => wordXI 0xF x 0x55
  | .loadRegs x   => wordXI 0xF x 0x65

/-- The two bytes of an instruction in address order (R83). -/
def encodeBytes (i : Instr) : List Byte := [highByte (encode i), lowByte (encode i)]

end Sys2Proof
end

