-- ==== Sys2Proof/Machine/Operands.lean ====
section
/-!
DEFINITION. The operand forms of spec/30_encoding.md R72 and spec/45_index_memory.md R163: nothing is shifted, scaled or
sign-extended.
-/

namespace Sys2Proof.Machine

/-- `zext_16(NNN)` (R72): a byte address, 0x000 to 0xFFF. -/
def zextAddr (nnn : Addr12) : Word := nnn.setWidth 16

/-- `zext_16(v)` of a register value (R7). -/
def zextByte (v : Byte) : Word := v.setWidth 16

/-- The one addressing mode, `I + i`: a mathematical sum, not wrapped (R163). -/
def indexedAddr (s : State) (i : Nat) : Nat := s.index.toNat + i

/-- How many registers a block move touches: `x[0]` to `x[X]`, inclusive (R165, R166). -/
def blockLength (x : RegIdx) : Nat := x.toNat + 1

/-- The values of `x[0]` to `x[X]` (R165). -/
def blockRegs (s : State) (x : RegIdx) : List Byte :=
  (List.range (blockLength x)).map fun i => s.reg (BitVec.ofNat 4 i)

/-- The operand of a shift (R129, R130): `x[X]`, or `x[Y]` under the alternative SHIFT_SOURCE. -/
def shiftOperand (s : State) (x y : RegIdx) : Byte :=
  match s.settings.shiftSource with
  | .fromX => s.reg x
  | .fromY => s.reg y

/-- The minuend and the subtrahend of SUBN (R128): `x[X]` and `x[Y]`, exchanged under the alternative SUBN_ORDER. -/
def subnOperands (s : State) (x y : RegIdx) : Byte × Byte :=
  match s.settings.subnOrder with
  | .asInput  => (s.reg x, s.reg y)
  | .reversed => (s.reg y, s.reg x)

/-- The key index of SKP and SKNP: the low four bits of the register (R143). -/
def keyIndex (v : Byte) : Nat := v.toNat % 16

/-- The three decimal digits of a byte, hundreds first (R164). -/
def bcdDigits (v : Byte) : List Byte := [v / 100, (v / 10) % 10, v % 10]

end Sys2Proof.Machine
end

