-- ==== Sys2Proof/Machine/Alu.lean ====
section
/-!
DEFINITION. The register loads and the ALU of spec/42_alu.md. Arithmetic is modulo 256 (R131); the operands are read before
anything is written (R132).
-/

namespace Sys2Proof.Machine

/-- LD Vx, NN (R120). -/
def execLdImm (x : RegIdx) (nn : Byte) (s : State) : Result := .next (s.setReg x nn)

/-- LD Vx, Vy (R121). -/
def execLdReg (x y : RegIdx) (s : State) : Result := .next (s.setReg x (s.reg y))

/-- ADD Vx, NN (R122): no flag, even on overflow. -/
def execAddImm (x : RegIdx) (nn : Byte) (s : State) : Result := .next (s.setReg x (s.reg x + nn))

/-- OR Vx, Vy (R123): no flag (R133). -/
def execOr (x y : RegIdx) (s : State) : Result := .next (s.setReg x (s.reg x ||| s.reg y))

/-- AND Vx, Vy (R124): no flag (R133). -/
def execAnd (x y : RegIdx) (s : State) : Result := .next (s.setReg x (s.reg x &&& s.reg y))

/-- XOR Vx, Vy (R125): no flag (R133). -/
def execXor (x y : RegIdx) (s : State) : Result := .next (s.setReg x (s.reg x ^^^ s.reg y))

/-- ADD Vx, Vy (R126). -/
def execAdd (x y : RegIdx) (s : State) : Result :=
  let a := s.reg x
  let b := s.reg y
  .next (writeResultThenFlag s x (a + b) (carryFlag a b))

/-- SUB Vx, Vy (R127). -/
def execSub (x y : RegIdx) (s : State) : Result :=
  let a := s.reg x
  let b := s.reg y
  .next (writeResultThenFlag s x (a - b) (noBorrowFlag a b))

/-- SUBN Vx, Vy (R128): the flag is the borrow, the opposite sense of SUB's. -/
def execSubn (x y : RegIdx) (s : State) : Result :=
  let a := (subnOperands s x y).1
  let b := (subnOperands s x y).2
  .next (writeResultThenFlag s x (a - b) (borrowFlag a b))

/-- SHR Vx (R129): a logical shift by one. -/
def execShr (x y : RegIdx) (s : State) : Result :=
  let a := shiftOperand s x y
  .next (writeResultThenFlag s x (a >>> 1) (shiftedOutRight a))

/-- SHL Vx (R130). -/
def execShl (x y : RegIdx) (s : State) : Result :=
  let a := shiftOperand s x y
  .next (writeResultThenFlag s x (a <<< 1) (shiftedOutLeft a))

end Sys2Proof.Machine
end

