-- ==== Sys2Proof/Machine/ControlFlow.lean ====
section
/-!
DEFINITION. HALT (spec/40_controller.md R91) and the control transfers of spec/41_control_flow.md. On entry `pc` is the
address of the instruction plus 2 (R90).
-/

namespace Sys2Proof.Machine

/-- HALT (R91): `run <- Halted`; the controller ticks no timer in this step. -/
def execHalt (s : State) : Result := .next (s.setRun .halted)

/-- RET (R100). -/
def execRet (s : State) : Result :=
  match s.pop with
  | none        => .next (raise ⟨.stackUnderflow, s.pc⟩ s)
  | some (v, t) => .next (t.setPc v)

/-- CALL NNN (R101): it pushes the pc, which the fetch has advanced. -/
def execCall (nnn : Addr12) (s : State) : Result :=
  match s.push s.pc with
  | none   => .next (raise ⟨.stackOverflow, s.pc⟩ s)
  | some t => .next (t.setPc (zextAddr nnn))

/-- JP NNN (R102). -/
def execJp (nnn : Addr12) (s : State) : Result := .next (s.setPc (zextAddr nnn))

/-- JP V0, NNN (R103): always register 0. -/
def execJpV0 (nnn : Addr12) (s : State) : Result := .next (s.setPc (zextAddr nnn + zextByte (s.reg 0)))

/-- SE Vx, NN (R104). -/
def execSeImm (x : RegIdx) (nn : Byte) (s : State) : Result := .next (s.skipIf (s.reg x == nn))

/-- SNE Vx, NN (R105). -/
def execSneImm (x : RegIdx) (nn : Byte) (s : State) : Result := .next (s.skipIf (s.reg x != nn))

/-- SE Vx, Vy (R106). -/
def execSeReg (x y : RegIdx) (s : State) : Result := .next (s.skipIf (s.reg x == s.reg y))

/-- SNE Vx, Vy (R107). -/
def execSneReg (x y : RegIdx) (s : State) : Result := .next (s.skipIf (s.reg x != s.reg y))

end Sys2Proof.Machine
end

