-- ==== Sys2Proof/Machine/Drawing.lean ====
section
/-!
DEFINITION. The display, CLS and DRW (spec/44_display.md).
-/

namespace Sys2Proof.Machine

/-- `disp[r][c]` (R28). -/
def Display.pixel (d : Display) (r : Fin 32) (c : Fin 64) : Bool := d[r][c]

/-- `disp[r][c] <- disp[r][c] XOR 1`. -/
def Display.flip (d : Display) (r : Fin 32) (c : Fin 64) : Display :=
  d.set r (d[r].set c (!d[r][c]))

/-- The display with every pixel 0 (R150). -/
def Display.blank : Display := Vector.replicate 32 (Vector.replicate 64 false)

/-- The pixels under the set bits of one sprite row, leftmost first: bit 7 is column offset 0, and row and column wrap per
pixel (R151). -/
def spriteRowPixels (cx cy row : Nat) (b : Byte) : List (Fin 32 × Fin 64) :=
  ((List.range 8).filter fun col => b.getLsbD (7 - col)).map fun col =>
    (Fin.ofNat 32 (cy + row), Fin.ofNat 64 (cx + col))

/-- The pixels under the set bits of a sprite whose first row given is number `row`, in the order they are drawn (R151). -/
def spritePixels (cx cy : Nat) : Nat → List Byte → List (Fin 32 × Fin 64)
  | _, [] => []
  | row, b :: bs => spriteRowPixels cx cy row b ++ spritePixels cx cy (row + 1) bs

/-- The pixels drawn in order: each is flipped, and `hit` becomes 1 when one was set before (R151, R153). -/
def drawPixels : List (Fin 32 × Fin 64) → Display × Bool → Display × Bool
  | [], acc => acc
  | (r, c) :: ps, (d, hit) => drawPixels ps (d.flip r c, hit || d.pixel r c)

/-- The display replaced, and the output `display_updated` pulsed (R154). -/
def State.showDisplay (s : State) (d : Display) : State := { s with disp := d, displayUpdated := true }

/-- CLS (R150). -/
def execCls (s : State) : Result := .next (s.showDisplay Display.blank)

/-- DRW Vx, Vy, N (R151): the position is read once, before anything is written; the flag is written once, last. With N = 0
no address is formed (R65). -/
def execDrw (x y : RegIdx) (n : Nibble) (s : State) : Result :=
  match readBytes s (indexedAddr s 0) n.toNat with
  | .error e  => .next (raise e s)
  | .ok bytes =>
    let drawn := drawPixels (spritePixels (s.reg x).toNat (s.reg y).toNat 0 bytes) (s.disp, false)
    .next ((s.showDisplay drawn.1).setFlag (flagOf drawn.2))

end Sys2Proof.Machine
end

