-- ==== Sys2Proof/Machine/IndexMemory.lean ====
section
/-!
DEFINITION. The index register, the stores and the loads of spec/45_index_memory.md. No load and no store changes `I` (R163).
-/

namespace Sys2Proof.Machine

/-- LD I, NNN (R160). -/
def execLdI (nnn : Addr12) (s : State) : Result := .next (s.setIndex (zextAddr nnn))

/-- ADD I, Vx (R161): modulo 65536, no flag. -/
def execAddI (x : RegIdx) (s : State) : Result := .next (s.setIndex (s.index + zextByte (s.reg x)))

/-- LD F, Vx (R162): the register value itself, no multiplier. -/
def execLdF (x : RegIdx) (s : State) : Result := .next (s.setIndex (zextByte (s.reg x)))

/-- LD B, Vx (R164): hundreds, tens, ones at I, I + 1, I + 2. -/
def execLdB (x : RegIdx) (s : State) : Result :=
  orRaise s (writeBytes s (indexedAddr s 0) (bcdDigits (s.reg x)))

/-- LD [I], Vx (R165). -/
def execDumpRegs (x : RegIdx) (s : State) : Result :=
  orRaise s (writeBytes s (indexedAddr s 0) (blockRegs s x))

/-- LD Vx, [I] (R166). -/
def execLoadRegs (x : RegIdx) (s : State) : Result :=
  orRaise s ((readBytes s (indexedAddr s 0) (blockLength x)).map (s.setRegsFrom 0))

end Sys2Proof.Machine
end

