-- ==== Sys2Proof/Machine/Keypad.lean ====
section
/-!
DEFINITION. The keypad skips and the random instruction of spec/43_keypad_random.md.
-/

namespace Sys2Proof.Machine

/-- SKP Vx (R140). -/
def execSkp (x : RegIdx) (s : State) : Result := .next (s.skipIf (s.key.getLsbD (keyIndex (s.reg x))))

/-- SKNP Vx (R141). -/
def execSknp (x : RegIdx) (s : State) : Result := .next (s.skipIf (!s.key.getLsbD (keyIndex (s.reg x))))

/-- RND Vx, NN (R142): one draw of the input RND. -/
def execRnd (x : RegIdx) (nn : Byte) (s : State) : Result :=
  .next ((drawRnd s).2.setReg x ((drawRnd s).1 &&& nn))

end Sys2Proof.Machine
end

