-- ==== Sys2Proof/Machine/Timers.lean ====
section
/-!
DEFINITION. The timer access instructions and the blocking key wait of spec/46_timers_keywait.md, and the tick of
spec/60_exceptions.md R190.
-/

namespace Sys2Proof.Machine

/-- One timer ticked: never below zero (R26, R190). -/
def tickTimer (t : Byte) : Byte := if t = 0 then 0 else t - 1

/-- TimerTick (R190). -/
def timerTick (s : State) : State := (s.setDt (tickTimer s.dt)).setSt (tickTimer s.st)

/-- LD Vx, DT (R170): the value before this step's tick. -/
def execLdVxDt (x : RegIdx) (s : State) : Result := .next (s.setReg x s.dt)

/-- LD DT, Vx (R171). -/
def execLdDtVx (x : RegIdx) (s : State) : Result := .next (s.setDt (s.reg x))

/-- LD ST, Vx (R172). -/
def execLdStVx (x : RegIdx) (s : State) : Result := .next (s.setSt (s.reg x))

/-- LD Vx, K (R173): it completes when a key is down, and otherwise suspends. -/
def execLdVxK (x : RegIdx) (s : State) : Result := .next ((storePressedKey x s).getD (s.setRun (.waitKey x)))

end Sys2Proof.Machine
end

