-- ==== Sys2Proof/Machine/Controller.lean ====
section
/-!
DEFINITION. The fetch-decode-execute controller: the step of spec/40_controller.md R90 to R94, whole.
-/

namespace Sys2Proof.Machine

/-- What every sampling step starts with: the pulse of the step before ends (R154), and the keypad is sampled (line 1 of R90
and of R94). -/
def beginStep (s : State) : State := sampleKeys { s with displayUpdated := false }

/-- The fetch: the bytes at pc and pc + 1, the first the high one (R54). -/
def fetchWord (s : State) : Except FatalError Word :=
  match memRead s s.pc.toNat with
  | .error e => .error e
  | .ok hi =>
    match memRead s (s.pc.toNat + 1) with
    | .error e => .error e
    | .ok lo   => .ok (joinBytes hi lo)

/-- Lines 7 to 9 of R90: the timers tick once if the instruction completed, that is unless the step halted, faulted or was
suspended (R190). -/
def tickIfCompleted (s : State) : State :=
  match s.run with
  | .running => timerTick s
  | _        => s

/-- The end of a Running step, of whatever the instruction answered. -/
def finishStep : Result → Result
  | .next t    => .next (tickIfCompleted t)
  | .fault e   => .fault e
  | .refused r => .refused r

/-- Line 2 to the end of R90, the keypad being sampled. The word 0x0000 decodes to HALT and to nothing else, so testing it
first (line 3) and dispatching it are the same (R76). -/
def fetchAndExecute (s : State) : Result :=
  match fetchWord s with
  | .error e => .next (raise e s)
  | .ok w =>
    let t := s.setPc (s.pc + 2)
    match decodeWord w with
    | .error _ => .next (raise ⟨.unimplementedOpcode, w⟩ t)
    | .ok i    => finishStep (exec i t)

/-- The poll of the key wait, the keypad being sampled (lines 2 to 4 of R94). -/
def pollKey (r : RegIdx) (s : State) : Result :=
  match storePressedKey r s with
  | some t => .next (timerTick (t.setRun .running))
  | none =>
    match s.settings.keywaitTimers with
    | .suspended => .next s
    | .running   => .next (timerTick s)

/-- One step of the controller, in each of its states (R30): Halted and Faulted are terminal and a step does nothing there
(R92, R93). -/
def controllerStep (s : State) : Result :=
  match s.run with
  | .running   => fetchAndExecute (beginStep s)
  | .waitKey r => pollKey r (beginStep s)
  | .halted    => .next s
  | .faulted _ => .next s

/-- A byte placed in memory where the address exists; the host's move before the run (R64). -/
def State.poke (s : State) (a : Nat) (b : Byte) : State :=
  if a < memSize then s.setMem (s.mem.write a b) else s

/-- A word placed where the next fetch reads it, high byte first (R54), with the controller Running so that the next step
fetches (log entry 10). -/
def State.placeWord (s : State) (w : Word) : State :=
  (((s.setRun .running).poke s.pc.toNat (highByte w)).poke (s.pc.toNat + 1) (lowByte w))

end Sys2Proof.Machine
end

