-- ==== Sys2Proof/Machine/Step.lean ====
section
/-!
DEFINITION. The step of the machine, and the placing of a word where the step fetches it.
-/

namespace Sys2Proof.Machine

/-- One step (spec/40_controller.md R90, R94). -/
def step (s : State) : Host.Outcome State Fault Refusal := controllerStep s

/-- The state with an instruction word placed where `step` fetches its next instruction. The one length is 16 bits (R70);
bits above `nbits` are 0. -/
def State.withFetchWord (s : State) (nbits w : Nat) : State := s.placeWord (BitVec.ofNat 16 (w % 2 ^ nbits))

end Sys2Proof.Machine
end

