-- ==== Sys2Proof/Machine/Interface.lean ====
section
/-!
DEFINITION. The interfaces at the block's boundary (spec/10_state.md R32): the outputs, and the host's moves before a run,
reset and load (spec/70_reset_and_hazards.md R200 to R203).
-/

namespace Sys2Proof.Machine

/-! ## Outputs (R32) -/

/-- `display`: the whole of `disp` (R154). -/
def displayOut (s : State) : Display := s.disp

/-- `display_updated`: 1 in a step that executed DRW or CLS (R154), read on the state that step led to. -/
def displayUpdatedOut (s : State) : Bool := s.displayUpdated

/-- `sound_on` (R192): ST is not zero, on the state between steps. -/
def soundOn (s : State) : Bool := s.st != 0

/-- `halted` (R32). -/
def haltedOut (s : State) : Bool := s.run == .halted

/-- `fault` (R31, R32). -/
def faultOut (s : State) : FaultReg := s.fault

/-! ## Host moves before a run -/

/-- `reset` asserted (R200): every piece of the machine's state takes its reset value. The settings and the inputs are not
the machine's state and stay (log entry 13). -/
def assertReset (s : State) : State :=
  { State.reset with settings := s.settings, keysIn := s.keysIn, rndIn := s.rndIn, fresh := s.fresh }

/-- Bytes copied verbatim to ascending addresses (R202). -/
def placeBytes (s : State) (a : Nat) : List Byte → State
  | [] => s
  | b :: bs => placeBytes (s.poke a b) (a + 1) bs

/-- PROGRAM_BASE (R5). -/
def programBase : Nat := 0x200

/-- The program loader (R202, R203): byte j of the image goes to 0x200 + j; an image of more than 3584 bytes raises
ProgramTooLarge. -/
def loadProgram (image : List Byte) (s : State) : State :=
  if imageFits image then placeBytes s programBase image else raise ⟨.programTooLarge, 0⟩ s

/-- The font collaborator (R51, R202): it fills 0x000 to 0x1FF; bytes beyond 512 are not placed (log entry 9). -/
def loadFont (image : List Byte) (s : State) : State := placeBytes s 0 (image.take programBase)

end Sys2Proof.Machine
end

