-- ==== Sys2Proof/Safety.lean ====
section
/-!
DEFINITION. The terms the claims are written in: what two states share (frames), what a fatal error leaves, when a step
executes an instruction, and the invariants of spec/10_state.md R37.
-/

namespace Sys2Proof.Machine

/-! ## Frames -/

/-- The pieces of State a frame speaks of. -/
inductive Component where
  | regs | pc | index | stack | sp | dt | st | key | disp | mem | run | fault | displayUpdated | settings | inputs
  deriving DecidableEq, Repr

/-- Two states agree on a component; memory and the display through the read of one byte and of one pixel. -/
def agree : Component → State → State → Prop
  | .regs, s, t           => ∀ r : RegIdx, t.reg r = s.reg r
  | .pc, s, t             => t.pc = s.pc
  | .index, s, t          => t.index = s.index
  | .stack, s, t          => ∀ k : Fin 16, t.stack[k] = s.stack[k]
  | .sp, s, t             => t.sp = s.sp
  | .dt, s, t             => t.dt = s.dt
  | .st, s, t             => t.st = s.st
  | .key, s, t            => t.key = s.key
  | .disp, s, t           => ∀ (r : Fin 32) (c : Fin 64), t.disp.pixel r c = s.disp.pixel r c
  | .mem, s, t            => ∀ a : Nat, t.mem.read a = s.mem.read a
  | .run, s, t            => t.run = s.run
  | .fault, s, t          => t.fault = s.fault
  | .displayUpdated, s, t => t.displayUpdated = s.displayUpdated
  | .settings, s, t       => t.settings = s.settings
  | .inputs, s, t         => t.keysIn = s.keysIn ∧ t.rndIn = s.rndIn ∧ t.fresh = s.fresh

/-- Everything but the named components is as before. -/
def FrameExcept (touched : List Component) (s t : State) : Prop := ∀ c, c ∉ touched → agree c s t

/-- Every general register but `x` is as before. -/
def OtherRegsKept (x : RegIdx) (s t : State) : Prop := ∀ r, r ≠ x → t.reg r = s.reg r

/-- Every general register but `x` and the flag register is as before. -/
def OtherRegsKeptButFlag (x : RegIdx) (s t : State) : Prop := ∀ r, r ≠ x → r ≠ 15 → t.reg r = s.reg r

/-- The registers an instruction may write: its destination X, the flag register where it computes a flag, and `x[0]` to `x[X]`
for the register load (R22, R120 to R130, R142, R151, R166, R170, R173). -/
def mayWriteReg : Instr → RegIdx → Prop
  | .ldImm x _, r | .addImm x _, r | .ldReg x _, r | .orReg x _, r | .andReg x _, r | .xorReg x _, r | .rnd x _, r
  | .ldVxDt x, r | .ldVxK x, r => r = x
  | .addReg x _, r | .subReg x _, r | .subn x _, r | .shr x _, r | .shl x _, r => r = x ∨ r = 15
  | .drw _ _ _, r => r = 15
  | .loadRegs x, r => r.toNat ≤ x.toNat
  | .halt, _ | .cls, _ | .ret, _ | .jp _, _ | .call _, _ | .seImm _ _, _ | .sneImm _ _, _ | .seReg _ _, _ | .sneReg _ _, _
  | .ldI _, _ | .jpV0 _, _ | .skp _, _ | .sknp _, _ | .ldDtVx _, _ | .ldStVx _, _ | .addI _, _ | .ldF _, _ | .ldB _, _
  | .dumpRegs _, _ => False

/-! ## Faults and steps -/

/-- A state a fatal error has left: only `run` and the fault register are defined (R187). -/
def Raised (t : State) (e : ErrorKind) (code : BitVec 3) (info : Word) : Prop :=
  t.run = .faulted e ∧ t.fault.code = code ∧ t.fault.info = info

/-- The run has ended in a fatal error (R30, R93). -/
def IsFaulted (s : State) : Prop := ∃ e, s.run = .faulted e

/-- The controller is Running and both bytes at pc exist; the word there is `w`, high byte first (R54). -/
def Fetches (s : State) (w : Word) : Prop :=
  s.run = .running ∧ s.pc.toNat + 1 < 4096 ∧
    w = s.mem.read s.pc.toNat ++ s.mem.read (s.pc.toNat + 1)

/-- The state an instruction executes in: the keypad sampled, the display pulse ended, `pc` past the instruction (lines 1 and
2 of R90). -/
def atExecute (s : State) : State := (beginStep s).setPc (s.pc + 2)

/-! ## Drawing -/

/-- Sprite row `row` is byte `row` at `I`; the bit at column offset `col` is bit 7 - col (R151). A sprite with its first row
at `cy` and its first column at `cx` covers pixel (r, c) with a 1 bit. -/
def SpriteCovers (s : State) (cx cy : Byte) (n : Nibble) (r : Fin 32) (c : Fin 64) : Prop :=
  ∃ row col : Nat, row < n.toNat ∧ col < 8 ∧ r.val = (cy.toNat + row) % 32 ∧ c.val = (cx.toNat + col) % 64 ∧
    (s.mem.read (s.index.toNat + row)).getLsbD (7 - col) = true

/-! ## Invariants -/

/-- Memory is in its canonical form. -/
def MemoryCanonical (s : State) : Prop := s.mem.wf = true

/-- R23: every value pc can reach is at most 0x10FE, and every return address the stack holds is at most 0x1000 (R100). After
a fatal error nothing is known of either (R187). -/
def PcBounded (s : State) : Prop :=
  IsFaulted s ∨ (s.pc.toNat ≤ 0x10FE ∧ ∀ k : Fin 16, s.stack[k].toNat ≤ 0x1000)

/-- The fault register says what `run` says (R31, R32): code 0 and info 0 unless `run` is Faulted, and then the error's code. -/
def FaultMatchesRun (s : State) : Prop :=
  match s.run with
  | .faulted e => s.fault.code = errorCode e
  | _          => s.fault.code = 0 ∧ s.fault.info = 0

/-- Outside a step that has just drawn there is no pulse: a terminal state shows none (R154). -/
def PulseQuietAtEnd (s : State) : Prop :=
  (s.run = .halted ∨ IsFaulted s) → s.displayUpdated = false

end Sys2Proof.Machine
end

