-- ==== Sys2Proof/Certificates/Slice0/Obligations.lean ====
section
/-!
DEFINITION. The statements for the provers, from the numbered rules of spec/. A docstring names the rule or section; where a
clause rests on a decision of the spec or a choice of the model, it says so and names the decision and the log entry.
-/

open Sys2Proof Sys2Proof.Machine

/-! ## Encoding -/

/-- R71, R83: decoding the word of any instruction gives the instruction back, every operand at every value. -/
def Obligations.DecodeOfEncodedInstruction : Prop :=
  ∀ i : Instr, decodeWord (encode i) = .ok i

/-- R73, R75: a word that decodes is the word of the instruction it decodes to, so no two words have one meaning. -/
def Obligations.EncodeOfDecodedWord : Prop :=
  ∀ (w : Word) (i : Instr), decodeWord w = .ok i → encode i = w

/-- R75: a row of the opcode map selects a word, (w AND mask) = match, exactly when the decoder gives that row's operation.
The patterns are the spec's general knowledge (D1, log entry 11). -/
def Obligations.DecoderFollowsOpcodeMap : Prop :=
  ∀ (w : Word) (row : OpcodeRow), row ∈ opcodeMap →
    (w &&& row.mask = row.value ↔ ∃ i, decodeWord w = .ok i ∧ i.mnemonic = row.mnemonic)

/-- R77: the unimplemented words, class by class. That they are the complement of the map is decision D6 (log entry 11). -/
def Obligations.UnimplementedWordsByClass : Prop :=
  ∀ w : Word, (∀ i, decodeWord w ≠ .ok i) ↔
    (w.toNat / 4096 = 0x0 ∧ w ≠ 0x0000 ∧ w ≠ 0x00E0 ∧ w ≠ 0x00EE) ∨
    (w.toNat / 4096 = 0x5 ∧ w.toNat % 16 ≠ 0) ∨
    (w.toNat / 4096 = 0x8 ∧ w.toNat % 16 ∈ [0x8, 0x9, 0xA, 0xB, 0xC, 0xD, 0xF]) ∨
    (w.toNat / 4096 = 0x9 ∧ w.toNat % 16 ≠ 0) ∨
    (w.toNat / 4096 = 0xE ∧ w.toNat % 256 ∉ [0x9E, 0xA1]) ∨
    (w.toNat / 4096 = 0xF ∧ w.toNat % 256 ∉ [0x07, 0x0A, 0x15, 0x18, 0x1E, 0x29, 0x33, 0x55, 0x65])

/-- Words of 95_test_vectors.md 2.1 and R83, decoded. All but 0x0000 rest on bit patterns the spec supplies from general
knowledge (D1, log entry 11). -/
def Obligations.WrittenOutWordsDecode : Prop :=
  decodeTableWord 16 0x0000 = some .halt ∧ decodeTableWord 16 0x00E0 = some .cls ∧
  decodeTableWord 16 0x00EE = some .ret ∧ decodeTableWord 16 0x1234 = some (.jp 0x234) ∧
  decodeTableWord 16 0x6307 = some (.ldImm 3 0x07) ∧ decodeTableWord 16 0x8AB4 = some (.addReg 10 11) ∧
  decodeTableWord 16 0xBFFF = some (.jpV0 0xFFF) ∧ decodeTableWord 16 0xD012 = some (.drw 0 1 2) ∧
  decodeTableWord 16 0xF155 = some (.dumpRegs 1) ∧ decodeTableWord 16 0x8014 = some (.addReg 0 1)

/-! ## The controller -/

/-- R90: a Running step whose word decodes to i is i executed with the keypad sampled and pc past the word; afterwards the
timers tick once if the instruction completed (`run` still Running), and nothing else happens. The byte order is decision D2
(log entry 11); that State holds the next inputs is the model's choice (log entry 2), and so is that it holds the display
pulse, which the step has ended before the instruction executes (log entry 7). -/
def Obligations.StepRunsDecodedInstruction : Prop :=
  ∀ (s : State) (w : Word) (i : Instr), Fetches s w → decodeWord w = .ok i →
    (step s = match exec i (atExecute s) with
      | .next t => .next (if t.run = .running then timerTick t else t)
      | .fault e => .fault e
      | .refused r => .refused r) ∧
    (atExecute s).pc = s.pc + 2 ∧ (atExecute s).displayUpdated = false ∧
    (∀ k ks, s.keysIn = k :: ks → (atExecute s).key = k ∧ (atExecute s).keysIn = ks) ∧
    FrameExcept [.pc, .key, .displayUpdated, .inputs] s (atExecute s)

/-- R35, R200, R201: after reset everything is 0 but pc = 0x200, and the controller is Running. The fault register's fields
are decision D19, the memory's zeros decision D29 (log entries 1 and 8); asserting reset gives the same machine whatever went
before, its settings and inputs kept by the model's choice (log entry 13). -/
def Obligations.ResetStateIsAllZeroButPc : Prop :=
  (∀ r : RegIdx, State.reset.reg r = 0) ∧ State.reset.pc = 0x200 ∧ State.reset.index = 0 ∧ State.reset.sp = 0 ∧
  (∀ k : Fin 16, State.reset.stack[k] = 0) ∧ State.reset.dt = 0 ∧ State.reset.st = 0 ∧ State.reset.key = 0 ∧
  (∀ (r : Fin 32) (c : Fin 64), State.reset.disp.pixel r c = false) ∧ (∀ a : Nat, State.reset.mem.read a = 0) ∧
  State.reset.run = .running ∧ State.reset.fault.code = 0 ∧ State.reset.fault.info = 0 ∧
  soundOn State.reset = false ∧ haltedOut State.reset = false ∧ displayUpdatedOut State.reset = false ∧
  (∀ s : State, FrameExcept [.settings, .inputs] State.reset (assertReset s))

/-- R35: the four invariants below hold at reset. The canonical form rests on the zeros of unloaded memory, decision D29 (log
entry 8); the fault register's zeros are decision D19 (log entry 1); the pulse is held in State by the model's choice (log entry
7), and as the reset state is Running, PulseQuietAtEnd says nothing more of it. -/
def Obligations.InvariantsHoldAtReset : Prop :=
  MemoryCanonical State.reset ∧ PcBounded State.reset ∧ FaultMatchesRun State.reset ∧ PulseQuietAtEnd State.reset

/-- R29, R50: every step keeps memory a table of distinct existing addresses in canonical form. -/
def Obligations.StepKeepsMemoryCanonical : Prop :=
  ∀ s t : State, MemoryCanonical s → step s = .next t → MemoryCanonical t

/-- R23, R100: every step keeps pc at most 0x10FE and every return address at most 0x1000, unless the run has faulted. -/
def Obligations.StepKeepsPcBounded : Prop :=
  ∀ s t : State, PcBounded s → step s = .next t → PcBounded t

/-- R31, R93: every step keeps the fault register in agreement with `run`. The codes are decision D19 (log entry 1). -/
def Obligations.StepKeepsFaultRegisterInAgreement : Prop :=
  ∀ s t : State, FaultMatchesRun s → step s = .next t → FaultMatchesRun t

/-- R154: every step keeps the rule that a Halted or Faulted state shows no display pulse (a step in such a state leads to
itself, hence the premise). That State holds the pulse, and that a fatal error ends it, is the model's reading (log entry 7). -/
def Obligations.StepKeepsTerminalStatesQuiet : Prop :=
  ∀ s t : State, PulseQuietAtEnd s → step s = .next t → PulseQuietAtEnd t

/-- R92: in Halted a step does nothing, and the output `halted` is 1. -/
def Obligations.HaltedStepDoesNothing : Prop :=
  ∀ s : State, s.run = .halted → step s = .next s ∧ haltedOut s = true

/-- R93: in Faulted a step does nothing. -/
def Obligations.FaultedStepDoesNothing : Prop :=
  ∀ (s : State) (e : ErrorKind), s.run = .faulted e → step s = .next s

/-- R91: HALT sets `run` and nothing else; the step that fetches 0x0000 ends Halted, pc past the word, and ticks no timer. That
it ticks none is decision D14 (log entry 12). -/
def Obligations.HaltWordEndsTheRun : Prop :=
  (∀ s : State, ∃ t, exec .halt s = .next t ∧ t.run = .halted ∧ FrameExcept [.run] s t) ∧
  (∀ s : State, Fetches s 0x0000 → ∃ t, step s = .next t ∧ t.run = .halted ∧ t.pc = s.pc + 2 ∧
    t.displayUpdated = false ∧ FrameExcept [.pc, .key, .run, .displayUpdated, .inputs] s t)

/-- R77, R181: a fetched word that decodes to nothing raises UnimplementedOpcode. Code 1 and the word as info are decision D19
(log entry 1). -/
def Obligations.UnimplementedWordRaises : Prop :=
  ∀ (s : State) (w : Word) (e : DecodeError), Fetches s w → decodeWord w = .error e →
    ∃ t, step s = .next t ∧ Raised t .unimplementedOpcode 1 w

/-- R54: a fetch with a byte outside memory raises OutOfBoundsAccess with the first address out of range; it does not wrap
(decision D13). Code and info are decision D19 (log entry 1). -/
def Obligations.FetchOutsideMemoryRaises : Prop :=
  ∀ s : State, s.run = .running → 4094 < s.pc.toNat →
    ∃ t, step s = .next t ∧
      Raised t .outOfBoundsAccess 4 (if 4095 < s.pc.toNat then s.pc else 0x1000)

/-- R190: exactly one tick in a step that completed an instruction, after the instruction and never below zero; none in a
halting, faulting or suspending step (decisions D14, D15, D16; log entry 12). -/
def Obligations.TimersTickOncePerCompletedInstruction : Prop :=
  ∀ (s : State) (w : Word) (i : Instr) (u : State), Fetches s w → decodeWord w = .ok i → exec i (atExecute s) = .next u →
    (u.run = .running → ∃ t, step s = .next t ∧ t.dt.toNat = u.dt.toNat - 1 ∧ t.st.toNat = u.st.toNat - 1 ∧
      FrameExcept [.dt, .st] u t) ∧
    (u.run ≠ .running → step s = .next u)

/-- R191: a timer that holds v holds max(v − k, 0) after k ticks. -/
def Obligations.TimerAfterManyTicks : Prop :=
  ∀ (k : Nat) (v : Byte), (Nat.iterate tickTimer k v).toNat = v.toNat - k

/-- R94: a poll of the key wait samples the keypad; with no key down only the sampling happens (and a tick under the
alternative KEYWAIT_TIMERS); with a key down the pressed key is stored, the lowest under the default KEYWAIT_PICK, the
controller is Running again and the timers tick once. Decision D16 (log entries 5 and 6); that State holds the next values of
the input KEYS is the model's choice (log entry 2). -/
def Obligations.PollOfTheKeyWait : Prop :=
  ∀ (s : State) (r : RegIdx), s.run = .waitKey r → ∃ t, step s = .next t ∧
    (∀ k ks, s.keysIn = k :: ks → t.key = k) ∧ t.displayUpdated = false ∧
    (t.key = 0 →
      (s.settings.keywaitTimers = .suspended → FrameExcept [.key, .displayUpdated, .inputs] s t) ∧
      (s.settings.keywaitTimers = .running → t.dt.toNat = s.dt.toNat - 1 ∧ t.st.toNat = s.st.toNat - 1 ∧
        FrameExcept [.key, .dt, .st, .displayUpdated, .inputs] s t)) ∧
    (t.key ≠ 0 → t.run = .running ∧ t.dt.toNat = s.dt.toNat - 1 ∧ t.st.toNat = s.st.toNat - 1 ∧
      (∃ k < 16, t.key.getLsbD k = true ∧ (t.reg r).toNat = k ∧
        (s.settings.keywaitPick = .lowest → ∀ j < k, t.key.getLsbD j = false)) ∧
      OtherRegsKept r s t ∧ FrameExcept [.regs, .key, .run, .dt, .st, .displayUpdated, .inputs] s t)

/-- R173: LD Vx,K with a key down stores a pressed key, the lowest under the default KEYWAIT_PICK; with none down it suspends.
Decision D16 (log entries 5 and 6). -/
def Obligations.KeyWaitStoresKeyOrSuspends : Prop :=
  ∀ (s : State) (x : RegIdx), ∃ t, exec (.ldVxK x) s = .next t ∧
    (s.key ≠ 0 →
      (∃ k < 16, s.key.getLsbD k = true ∧ (t.reg x).toNat = k ∧
        (s.settings.keywaitPick = .lowest → (∀ j < k, s.key.getLsbD j = false) ∧ FrameExcept [.regs] s t)) ∧
      OtherRegsKept x s t ∧ FrameExcept [.regs, .inputs] s t) ∧
    (s.key = 0 → t.run = .waitKey x ∧ FrameExcept [.run] s t)

/-! ## Whole-machine rules -/

/-- R10, R78, R185: every instruction and every step answers a next state: nothing is refused and nothing stops the model. -/
def Obligations.EveryInstructionAndStepAnswersNext : Prop :=
  (∀ (i : Instr) (s : State), ∃ t, exec i s = .next t) ∧ (∀ s : State, ∃ t, step s = .next t)

/-- R20 ("written by"), R21 to R28, R50: each piece of state changes only in the instructions that name it, unless the
instruction ends in a fatal error. pc is here the pc at execute, past the instruction (R23). The display pulse, the settings and
the inputs are in State by the model's choice (log entries 2 to 7). -/
def Obligations.EachComponentHasItsOwnWriters : Prop :=
  ∀ (i : Instr) (s t : State), exec i s = .next t → ¬ IsFaulted t →
    (∀ r : RegIdx, t.reg r = s.reg r ∨ mayWriteReg i r) ∧
    (agree .pc s t ∨ i = .ret ∨ (∃ a, i = .jp a ∨ i = .call a ∨ i = .jpV0 a) ∨ (∃ x, i = .skp x ∨ i = .sknp x) ∨
      (∃ x n, i = .seImm x n ∨ i = .sneImm x n) ∨ ∃ x y, i = .seReg x y ∨ i = .sneReg x y) ∧
    ((agree .disp s t ∧ agree .displayUpdated s t) ∨ i = .cls ∨ ∃ x y n, i = .drw x y n) ∧
    (agree .mem s t ∨ (∃ x, i = .ldB x) ∨ ∃ x, i = .dumpRegs x) ∧
    (agree .index s t ∨ (∃ a, i = .ldI a) ∨ (∃ x, i = .addI x) ∨ ∃ x, i = .ldF x) ∧
    ((agree .stack s t ∧ agree .sp s t) ∨ i = .ret ∨ ∃ a, i = .call a) ∧
    (agree .dt s t ∨ ∃ x, i = .ldDtVx x) ∧ (agree .st s t ∨ ∃ x, i = .ldStVx x) ∧
    (agree .run s t ∨ i = .halt ∨ ∃ x, i = .ldVxK x) ∧
    (agree .inputs s t ∨ (∃ x n, i = .rnd x n) ∨ ∃ x, i = .ldVxK x) ∧
    agree .key s t ∧ agree .fault s t ∧ agree .settings s t

/-- R22, R133, R207: register 15 changes only in the six flag-writing instructions, which leave 0 or 1 in it (written last,
decisions D9 and D10, log entry 12), or in an instruction that names it as a destination. -/
def Obligations.FlagChangesOnlyWhereListed : Prop :=
  ∀ (i : Instr) (s t : State), exec i s = .next t → ¬ IsFaulted t →
    match i with
    | .addReg _ _ | .subReg _ _ | .subn _ _ | .shr _ _ | .shl _ _ | .drw _ _ _ => t.reg 15 = 0 ∨ t.reg 15 = 1
    | .ldImm x _ | .addImm x _ | .ldReg x _ | .orReg x _ | .andReg x _ | .xorReg x _ | .rnd x _ | .ldVxDt x | .ldVxK x
    | .loadRegs x => x ≠ 15 → t.reg 15 = s.reg 15
    | _ => t.reg 15 = s.reg 15

/-- R26, R172: no instruction reads ST. From states that differ in ST alone, an instruction ends in the same controller state
and fault register, and, unless it ends in a fatal error, after which nothing else is defined (R187), leads to states that
differ in ST at most. -/
def Obligations.SoundTimerIsInvisible : Prop :=
  ∀ (i : Instr) (s t : State) (v : Byte), exec i s = .next t →
    ∃ u, exec i (s.setSt v) = .next u ∧ agree .run t u ∧ agree .fault t u ∧ (¬ IsFaulted t → FrameExcept [.st] t u)

/-- R6: no step changes the decided parameters (that State holds them is the model's choice, log entry 5). -/
def Obligations.StepKeepsSettings : Prop :=
  ∀ s t : State, step s = .next t → t.settings = s.settings

/-- R154: `display_updated` is 1 in a step that executed DRW or CLS and 0 in every other Running step; for CLS it is decision
D33, and that State holds it is the model's choice (log entry 7). -/
def Obligations.DisplayUpdatedPulsesForDrawing : Prop :=
  ∀ (s : State) (w : Word) (i : Instr) (t : State), Fetches s w → decodeWord w = .ok i → step s = .next t →
    (displayUpdatedOut t = true ↔ ¬ IsFaulted t ∧ (i = .cls ∨ ∃ x y n, i = .drw x y n))

/-! ## Loads and the ALU -/

/-- R120, R121. -/
def Obligations.LoadsOverwriteTheDestination : Prop :=
  ∀ (s : State) (x y : RegIdx) (nn : Byte),
    (∃ t, exec (.ldImm x nn) s = .next t ∧ t.reg x = nn ∧ OtherRegsKept x s t ∧ FrameExcept [.regs] s t) ∧
    (∃ t, exec (.ldReg x y) s = .next t ∧ t.reg x = s.reg y ∧ OtherRegsKept x s t ∧ FrameExcept [.regs] s t)

/-- R122: wraps, no flag. -/
def Obligations.AddImmediateWrapsWithoutFlag : Prop :=
  ∀ (s : State) (x : RegIdx) (nn : Byte), ∃ t, exec (.addImm x nn) s = .next t ∧
    (t.reg x).toNat = ((s.reg x).toNat + nn.toNat) % 256 ∧ OtherRegsKept x s t ∧ FrameExcept [.regs] s t

/-- R123, R124, R125: bit by bit, no flag. -/
def Obligations.BitwiseOperationsWithoutFlag : Prop :=
  ∀ (s : State) (x y : RegIdx),
    (∃ t, exec (.orReg x y) s = .next t ∧ OtherRegsKept x s t ∧ FrameExcept [.regs] s t ∧
      ∀ k, (t.reg x).getLsbD k = ((s.reg x).getLsbD k || (s.reg y).getLsbD k)) ∧
    (∃ t, exec (.andReg x y) s = .next t ∧ OtherRegsKept x s t ∧ FrameExcept [.regs] s t ∧
      ∀ k, (t.reg x).getLsbD k = ((s.reg x).getLsbD k && (s.reg y).getLsbD k)) ∧
    (∃ t, exec (.xorReg x y) s = .next t ∧ OtherRegsKept x s t ∧ FrameExcept [.regs] s t ∧
      ∀ k, (t.reg x).getLsbD k = ((s.reg x).getLsbD k ^^ (s.reg y).getLsbD k))

/-- R126: with X = 15 the flag stays, the sum is lost. -/
def Obligations.AddSetsCarryLast : Prop :=
  ∀ (s : State) (x y : RegIdx), ∃ t, exec (.addReg x y) s = .next t ∧
    (t.reg 15).toNat = (if 256 ≤ (s.reg x).toNat + (s.reg y).toNat then 1 else 0) ∧
    (x ≠ 15 → (t.reg x).toNat = ((s.reg x).toNat + (s.reg y).toNat) % 256) ∧
    OtherRegsKeptButFlag x s t ∧ FrameExcept [.regs] s t

/-- R127; that the flag is written last, which shows with X = 15, is decision D9 (log entry 12). -/
def Obligations.SubtractSetsNoBorrowLast : Prop :=
  ∀ (s : State) (x y : RegIdx), ∃ t, exec (.subReg x y) s = .next t ∧
    (t.reg 15).toNat = (if (s.reg y).toNat ≤ (s.reg x).toNat then 1 else 0) ∧
    (x ≠ 15 → (t.reg x).toNat = ((s.reg x).toNat + 256 - (s.reg y).toNat) % 256) ∧
    OtherRegsKeptButFlag x s t ∧ FrameExcept [.regs] s t

/-- R128, in both configurations of SUBN_ORDER: decision D7 (default as_input; log entry 5), flag last decision D9 (log entry
12). -/
def Obligations.SubtractReverseSetsBorrowLast : Prop :=
  ∀ (s : State) (x y : RegIdx) (a b : Byte),
    (s.settings.subnOrder = .asInput ∧ a = s.reg x ∧ b = s.reg y) ∨
      (s.settings.subnOrder = .reversed ∧ a = s.reg y ∧ b = s.reg x) →
    ∃ t, exec (.subn x y) s = .next t ∧
      (t.reg 15).toNat = (if a.toNat < b.toNat then 1 else 0) ∧
      (x ≠ 15 → (t.reg x).toNat = (a.toNat + 256 - b.toNat) % 256) ∧
      OtherRegsKeptButFlag x s t ∧ FrameExcept [.regs] s t

/-- R128: under the default SUBN_ORDER, SUBN writes the same result as SUB and the complementary flag (decision D7, log entry
5). With X = 15 this rests on both writing the flag last, decision D9 (log entry 12). -/
def Obligations.SubtractReverseMirrorsSubtract : Prop :=
  ∀ (s : State) (x y : RegIdx), s.settings.subnOrder = .asInput →
    ∃ t u, exec (.subReg x y) s = .next t ∧ exec (.subn x y) s = .next u ∧
      (t.reg 15).toNat + (u.reg 15).toNat = 1 ∧ OtherRegsKept 15 t u ∧ FrameExcept [.regs] t u

/-- R129, for both settings of SHIFT_SOURCE: decision D8 (default X; log entry 5), flag last decision D9 (log entry 12). -/
def Obligations.ShiftRightSetsLowBitLast : Prop :=
  ∀ (s : State) (x y : RegIdx) (a : Byte),
    (s.settings.shiftSource = .fromX ∧ a = s.reg x) ∨ (s.settings.shiftSource = .fromY ∧ a = s.reg y) →
    ∃ t, exec (.shr x y) s = .next t ∧ (t.reg 15).toNat = a.toNat % 2 ∧
      (x ≠ 15 → (t.reg x).toNat = a.toNat / 2) ∧ OtherRegsKeptButFlag x s t ∧ FrameExcept [.regs] s t

/-- R130, for both settings of SHIFT_SOURCE: decision D8 (default X; log entry 5), flag last decision D9 (log entry 12). -/
def Obligations.ShiftLeftSetsHighBitLast : Prop :=
  ∀ (s : State) (x y : RegIdx) (a : Byte),
    (s.settings.shiftSource = .fromX ∧ a = s.reg x) ∨ (s.settings.shiftSource = .fromY ∧ a = s.reg y) →
    ∃ t, exec (.shl x y) s = .next t ∧ (t.reg 15).toNat = a.toNat / 128 ∧
      (x ≠ 15 → (t.reg x).toNat = (a.toNat * 2) % 256) ∧ OtherRegsKeptButFlag x s t ∧ FrameExcept [.regs] s t

/-! ## Control transfer -/

/-- R102. -/
def Obligations.JumpSetsPc : Prop :=
  ∀ (s : State) (nnn : Addr12), ∃ t, exec (.jp nnn) s = .next t ∧ t.pc.toNat = nnn.toNat ∧ FrameExcept [.pc] s t

/-- R103: the operation is decision D4, the 16-bit sum decision D11 (log entry 11). -/
def Obligations.JumpWithOffsetAddsRegisterZero : Prop :=
  ∀ (s : State) (nnn : Addr12), ∃ t, exec (.jpV0 nnn) s = .next t ∧ t.pc.toNat = nnn.toNat + (s.reg 0).toNat ∧
    FrameExcept [.pc] s t

/-- R101: with room the advanced pc is pushed and pc becomes the target; with 16 entries in use the error is
StackOverflow. -/
def Obligations.CallPushesOrOverflows : Prop :=
  ∀ (s : State) (nnn : Addr12),
    (s.sp.val < 16 → ∃ t, exec (.call nnn) s = .next t ∧ t.sp.val = s.sp.val + 1 ∧ t.pc.toNat = nnn.toNat ∧
      (∀ k : Fin 16, t.stack[k] = if k.val = s.sp.val then s.pc else s.stack[k]) ∧
      FrameExcept [.pc, .sp, .stack] s t) ∧
    (s.sp.val = 16 → ∃ t, exec (.call nnn) s = .next t ∧ t.run = .faulted .stackOverflow)

/-- R100: with an entry the newest one is popped into pc and its contents stay; with none the error is StackUnderflow.
That the contents stay is decision D26 (log entry 17). -/
def Obligations.ReturnPopsOrUnderflows : Prop :=
  ∀ s : State,
    (∀ k : Fin 16, s.sp.val = k.val + 1 → ∃ t, exec .ret s = .next t ∧ t.sp.val = k.val ∧ t.pc = s.stack[k] ∧
      FrameExcept [.pc, .sp] s t) ∧
    (s.sp.val = 0 → ∃ t, exec .ret s = .next t ∧ t.run = .faulted .stackUnderflow)

/-- R180, R182, R185: what the two stack errors record; the codes and the info word are decision D19 (log entry 1). -/
def Obligations.StackErrorsRecordPc : Prop :=
  ∀ (s : State) (nnn : Addr12),
    (s.sp.val = 16 → ∃ t, exec (.call nnn) s = .next t ∧ Raised t .stackOverflow 2 s.pc) ∧
    (s.sp.val = 0 → ∃ t, exec .ret s = .next t ∧ Raised t .stackUnderflow 3 s.pc)

/-- R100, R101: a RET in any later state with the call's stack restores the pc the CALL saw and the stack depth (90_conflicts.md
C4: the pc at execute). -/
def Obligations.ReturnUndoesCall : Prop :=
  ∀ (s : State) (nnn : Addr12), s.sp.val < 16 → ∃ t, exec (.call nnn) s = .next t ∧
    ∀ u : State, u.sp = t.sp → agree .stack t u → ∃ v, exec .ret u = .next v ∧ v.pc = s.pc ∧ v.sp = s.sp

/-- R104 to R108: one more instruction width when the condition holds, and no change else; the four conditions are decision
D5 (log entry 11). -/
def Obligations.RegisterSkipsCompare : Prop :=
  ∀ (s : State) (x y : RegIdx) (nn : Byte),
    (∃ t, exec (.seImm x nn) s = .next t ∧ t.pc = (if s.reg x = nn then s.pc + 2 else s.pc) ∧ FrameExcept [.pc] s t) ∧
    (∃ t, exec (.sneImm x nn) s = .next t ∧ t.pc = (if s.reg x = nn then s.pc else s.pc + 2) ∧ FrameExcept [.pc] s t) ∧
    (∃ t, exec (.seReg x y) s = .next t ∧ t.pc = (if s.reg x = s.reg y then s.pc + 2 else s.pc) ∧ FrameExcept [.pc] s t) ∧
    (∃ t, exec (.sneReg x y) s = .next t ∧ t.pc = (if s.reg x = s.reg y then s.pc else s.pc + 2) ∧ FrameExcept [.pc] s t)

/-- R140, R141, R143: the key is the register value modulo 16. -/
def Obligations.KeySkipsReadTheLatch : Prop :=
  ∀ (s : State) (x : RegIdx),
    (∃ t, exec (.skp x) s = .next t ∧ FrameExcept [.pc] s t ∧
      t.pc = (if s.key.getLsbD ((s.reg x).toNat % 16) = true then s.pc + 2 else s.pc)) ∧
    (∃ t, exec (.sknp x) s = .next t ∧ FrameExcept [.pc] s t ∧
      t.pc = (if s.key.getLsbD ((s.reg x).toNat % 16) = true then s.pc else s.pc + 2))

/-- R142: one value r of the input RND is drawn, the one the host has fixed next if there is one, and x[X] becomes r AND NN.
That State holds the next values and a counter of the free ones is the model's choice (log entries 3 and 4). -/
def Obligations.RandomIsMasked : Prop :=
  ∀ (s : State) (x : RegIdx) (nn : Byte), ∃ (t : State) (r : Byte), exec (.rnd x nn) s = .next t ∧
    t.reg x = r &&& nn ∧ (∀ k, nn.getLsbD k = false → (t.reg x).getLsbD k = false) ∧
    (∀ q qs, s.rndIn = q :: qs → r = q ∧ t.rndIn = qs ∧ t.fresh = s.fresh) ∧
    (s.rndIn = [] → t.rndIn = [] ∧ t.fresh = s.fresh + 1) ∧ t.keysIn = s.keysIn ∧
    OtherRegsKept x s t ∧ FrameExcept [.regs, .inputs] s t

/-! ## The display -/

/-- R150: the operation and its effect are decision D4, the pulse D33 (log entries 7 and 11). -/
def Obligations.ClearBlanksTheDisplay : Prop :=
  ∀ s : State, ∃ t, exec .cls s = .next t ∧ (∀ (r : Fin 32) (c : Fin 64), t.disp.pixel r c = false) ∧
    t.displayUpdated = true ∧ FrameExcept [.disp, .displayUpdated] s t

/-- R151, R153: with its bytes in memory (N = 0 needs none, R65), DRW flips exactly the pixels the sprite covers with a 1
bit, wrapping per pixel, and x[15] says whether one of them was set. That the position is read once and the flag written once,
last, is decision D10 (log entry 12); that I stays is D18. -/
def Obligations.DrawXorsTheSprite : Prop :=
  ∀ (s : State) (x y : RegIdx) (n : Nibble), n = 0 ∨ s.index.toNat + n.toNat ≤ 4096 →
    ∃ t, exec (.drw x y n) s = .next t ∧
      (∀ (r : Fin 32) (c : Fin 64),
        (SpriteCovers s (s.reg x) (s.reg y) n r c → t.disp.pixel r c = !s.disp.pixel r c) ∧
        (¬ SpriteCovers s (s.reg x) (s.reg y) n r c → t.disp.pixel r c = s.disp.pixel r c)) ∧
      ((∃ r c, SpriteCovers s (s.reg x) (s.reg y) n r c ∧ s.disp.pixel r c = true) → t.reg 15 = 1) ∧
      ((¬ ∃ r c, SpriteCovers s (s.reg x) (s.reg y) n r c ∧ s.disp.pixel r c = true) → t.reg 15 = 0) ∧
      t.displayUpdated = true ∧ OtherRegsKept 15 s t ∧ FrameExcept [.regs, .disp, .displayUpdated] s t

/-- R152: the same sprite drawn a second time at the same position restores the display, and on a display that was blank under
the sprite the second draw reports 1 exactly when the sprite has a 1 bit. -/
def Obligations.DrawTwiceRestoresTheDisplay : Prop :=
  ∀ (s : State) (x y : RegIdx) (n : Nibble), n = 0 ∨ s.index.toNat + n.toNat ≤ 4096 →
    ∃ t, exec (.drw x y n) s = .next t ∧
      ∀ v : State, agree .disp t v → agree .mem s v → v.index = s.index → v.reg x = s.reg x → v.reg y = s.reg y →
        ∃ u, exec (.drw x y n) v = .next u ∧ agree .disp s u ∧
          ((∀ r c, SpriteCovers s (s.reg x) (s.reg y) n r c → s.disp.pixel r c = false) →
            (u.reg 15 = 1 ↔ ∃ r c, SpriteCovers s (s.reg x) (s.reg y) n r c))

/-! ## The index register, loads and stores -/

/-- R160, R161: LD I is decision D4, the wrap at 65536 decision D11 (log entries 11 and 15). -/
def Obligations.IndexIsLoadedAndAdded : Prop :=
  ∀ (s : State) (nnn : Addr12) (x : RegIdx),
    (∃ t, exec (.ldI nnn) s = .next t ∧ t.index.toNat = nnn.toNat ∧ FrameExcept [.index] s t) ∧
    (∃ t, exec (.addI x) s = .next t ∧ t.index.toNat = (s.index.toNat + (s.reg x).toNat) % 65536 ∧
      FrameExcept [.index] s t)

/-- R162: no multiplier and no mask. -/
def Obligations.FontAddressIsTheRegisterValue : Prop :=
  ∀ (s : State) (x : RegIdx), ∃ t, exec (.ldF x) s = .next t ∧ t.index.toNat = (s.reg x).toNat ∧
    FrameExcept [.index] s t

/-- R164: the digits (decision D31 follows the source's stated behaviour), I unchanged (decision D18; log entry 12). -/
def Obligations.BcdStoresThreeDigits : Prop :=
  ∀ (s : State) (x : RegIdx), s.index.toNat + 2 ≤ 4095 → ∃ t, exec (.ldB x) s = .next t ∧
    (t.mem.read s.index.toNat).toNat = (s.reg x).toNat / 100 ∧
    (t.mem.read (s.index.toNat + 1)).toNat = (s.reg x).toNat / 10 % 10 ∧
    (t.mem.read (s.index.toNat + 2)).toNat = (s.reg x).toNat % 10 ∧
    (∀ a, a < s.index.toNat ∨ s.index.toNat + 2 < a → t.mem.read a = s.mem.read a) ∧ FrameExcept [.mem] s t

/-- R165: registers 0 to X inclusive, I unchanged (decision D18; log entry 12). -/
def Obligations.RegisterDumpStoresTheBlock : Prop :=
  ∀ (s : State) (x : RegIdx), s.index.toNat + x.toNat ≤ 4095 → ∃ t, exec (.dumpRegs x) s = .next t ∧
    (∀ r : RegIdx, r.toNat ≤ x.toNat → t.mem.read (s.index.toNat + r.toNat) = s.reg r) ∧
    (∀ a, a < s.index.toNat ∨ s.index.toNat + x.toNat < a → t.mem.read a = s.mem.read a) ∧ FrameExcept [.mem] s t

/-- R166: registers 0 to X inclusive, I unchanged (decision D18; log entry 12). -/
def Obligations.RegisterLoadFillsTheBlock : Prop :=
  ∀ (s : State) (x : RegIdx), s.index.toNat + x.toNat ≤ 4095 → ∃ t, exec (.loadRegs x) s = .next t ∧
    (∀ r : RegIdx, r.toNat ≤ x.toNat → t.reg r = s.mem.read (s.index.toNat + r.toNat)) ∧
    (∀ r : RegIdx, x.toNat < r.toNat → t.reg r = s.reg r) ∧ FrameExcept [.regs] s t

/-- R165, R166: a register load in any later state with the dump's memory and the same I gives the dumped registers back. -/
def Obligations.RegisterLoadUndoesDump : Prop :=
  ∀ (s : State) (x : RegIdx), s.index.toNat + x.toNat ≤ 4095 → ∃ t, exec (.dumpRegs x) s = .next t ∧
    ∀ u : State, agree .mem t u → u.index = s.index → ∃ v, exec (.loadRegs x) u = .next v ∧
      ∀ r : RegIdx, r.toNat ≤ x.toNat → v.reg r = s.reg r

/-- R52, R65, R182: an instruction whose block of addresses leaves memory raises OutOfBoundsAccess with the first address out
of range; nothing wraps, which is decision D21 (log entry 12). Code and info are decision D19 (log entry 1). -/
def Obligations.BlockOutsideMemoryRaises : Prop :=
  ∀ (s : State) (x y : RegIdx) (n : Nibble) (first : Word),
    first = (if 4095 < s.index.toNat then s.index else 0x1000) →
    (4095 < s.index.toNat + 2 → ∃ t, exec (.ldB x) s = .next t ∧ Raised t .outOfBoundsAccess 4 first) ∧
    (4095 < s.index.toNat + x.toNat → ∃ t, exec (.dumpRegs x) s = .next t ∧ Raised t .outOfBoundsAccess 4 first) ∧
    (4095 < s.index.toNat + x.toNat → ∃ t, exec (.loadRegs x) s = .next t ∧ Raised t .outOfBoundsAccess 4 first) ∧
    (n ≠ 0 → 4096 < s.index.toNat + n.toNat →
      ∃ t, exec (.drw x y n) s = .next t ∧ Raised t .outOfBoundsAccess 4 first)

/-! ## The timers -/

/-- R170, R171, R172: the copies, at execute and at the end of the step with its tick; `sound_on` after LD ST. -/
def Obligations.TimerAccessCopiesThenTicks : Prop :=
  ∀ (s : State) (x : RegIdx),
    (∃ t, exec (.ldVxDt x) s = .next t ∧ t.reg x = s.dt ∧ OtherRegsKept x s t ∧ FrameExcept [.regs] s t) ∧
    (∃ t, exec (.ldDtVx x) s = .next t ∧ t.dt = s.reg x ∧ FrameExcept [.dt] s t) ∧
    (∃ t, exec (.ldStVx x) s = .next t ∧ t.st = s.reg x ∧ FrameExcept [.st] s t) ∧
    (∀ w, Fetches s w → decodeWord w = .ok (.ldVxDt x) →
      ∃ t, step s = .next t ∧ t.reg x = s.dt ∧ t.dt.toNat = s.dt.toNat - 1) ∧
    (∀ w, Fetches s w → decodeWord w = .ok (.ldDtVx x) →
      ∃ t, step s = .next t ∧ t.dt.toNat = (s.reg x).toNat - 1) ∧
    (∀ w, Fetches s w → decodeWord w = .ok (.ldStVx x) →
      ∃ t, step s = .next t ∧ t.st.toNat = (s.reg x).toNat - 1 ∧ soundOn t = decide (1 < (s.reg x).toNat))

/-! ## The loader -/

/-- R202: byte j of an image of at most 3584 bytes goes to 0x200 + j; nothing else changes. -/
def Obligations.LoaderPlacesTheImage : Prop :=
  ∀ (s : State) (image : List Byte), image.length ≤ 3584 →
    (∀ a, 0x200 ≤ a → (loadProgram image s).mem.read a = image.getD (a - 0x200) (s.mem.read a)) ∧
    FrameExcept [.mem] s (loadProgram image s) ∧
    (∀ a, a < 0x200 → (loadProgram image s).mem.read a = s.mem.read a)

/-- R203: a longer image is a fatal error before the first step, and no step executes. Code 5 and info 0 are decision D19, the
placing of the error at the load decision D32 (log entry 1). -/
def Obligations.OversizeImageRaises : Prop :=
  ∀ (s : State) (image : List Byte), 3584 < image.length →
    Raised (loadProgram image s) .programTooLarge 5 0 ∧ step (loadProgram image s) = .next (loadProgram image s)
end

