-- ==== Sys2Proof/Laws/Drawing.lean ====
section
/-!
SUPPORT. The laws of the draw engine: what a flip and a run of flips do to each pixel, which pixels a sprite covers, and that
a sprite never covers one pixel twice (spec/44_display.md R151).
-/

namespace Sys2Proof.Machine

theorem Display.pixel_flip (d : Display) (r r' : Fin 32) (c c' : Fin 64) :
    (d.flip r c).pixel r' c' = if r = r' ∧ c = c' then !d.pixel r c else d.pixel r' c' := by
  unfold Display.flip Display.pixel
  simp only [Fin.getElem_fin, Vector.getElem_set, Fin.val_inj]
  by_cases hr : r = r'
  · subst hr
    by_cases hc : c = c'
    · subst hc; simp
    · simp [hc, Fin.val_inj]
  · simp [hr]

theorem Display.pixel_blank (r : Fin 32) (c : Fin 64) : Display.blank.pixel r c = false := by
  simp [Display.blank, Display.pixel]

/-- Drawing pixels no two of which are the same flips exactly these. -/
theorem drawPixels_pixel (ps : List (Fin 32 × Fin 64)) (hps : ps.Nodup) (d : Display) (hit : Bool) (r : Fin 32) (c : Fin 64) :
    (drawPixels ps (d, hit)).1.pixel r c = (d.pixel r c ^^ decide ((r, c) ∈ ps)) := by
  induction ps generalizing d hit with
  | nil => simp [drawPixels]
  | cons p ps ih =>
    obtain ⟨pr, pc⟩ := p
    obtain ⟨hn, hnd⟩ := List.nodup_cons.mp hps
    rw [drawPixels, ih hnd, Display.pixel_flip]
    by_cases he : pr = r ∧ pc = c
    · obtain ⟨rfl, rfl⟩ := he
      simp [hn]
    · have : ¬ (r, c) = (pr, pc) := fun h => he ⟨(Prod.mk.inj h).1.symm, (Prod.mk.inj h).2.symm⟩
      simp [he, this]

/-- Drawing pixels no two of which are the same reports a hit exactly when one was set before. -/
theorem drawPixels_hit (ps : List (Fin 32 × Fin 64)) (hps : ps.Nodup) (d : Display) (hit : Bool) :
    (drawPixels ps (d, hit)).2 = (hit || ps.any fun p => d.pixel p.1 p.2) := by
  induction ps generalizing d hit with
  | nil => simp [drawPixels]
  | cons p ps ih =>
    obtain ⟨pr, pc⟩ := p
    obtain ⟨hn, hnd⟩ := List.nodup_cons.mp hps
    have h : (ps.any fun p => (d.flip pr pc).pixel p.1 p.2) = ps.any fun p => d.pixel p.1 p.2 := by
      rw [Bool.eq_iff_iff, List.any_eq_true, List.any_eq_true]
      refine exists_congr fun q => and_congr_right fun hq => ?_
      have : ¬ (pr = q.1 ∧ pc = q.2) := fun he => hn (by rw [he.1, he.2]; exact hq)
      rw [Display.pixel_flip, if_neg this]
    rw [drawPixels, ih hnd, h, List.any_cons, Bool.or_assoc]

theorem mem_spriteRowPixels (cx cy row : Nat) (b : Byte) (r : Fin 32) (c : Fin 64) :
    (r, c) ∈ spriteRowPixels cx cy row b ↔
      ∃ col < 8, r.val = (cy + row) % 32 ∧ c.val = (cx + col) % 64 ∧ b.getLsbD (7 - col) = true := by
  simp only [spriteRowPixels, List.mem_map, List.mem_filter, List.mem_range, Prod.mk.injEq, Fin.ext_iff, Fin.val_ofNat]
  exact exists_congr fun col => ⟨fun ⟨⟨h1, h2⟩, h3, h4⟩ => ⟨h1, h3.symm, h4.symm, h2⟩,
    fun ⟨h1, h3, h4, h2⟩ => ⟨⟨h1, h2⟩, h3.symm, h4.symm⟩⟩

/-- The pixels of a sprite: row `row + i` of the sprite is byte `i`, bit 7 is column offset 0, and both coordinates wrap. -/
theorem mem_spritePixels (cx cy row : Nat) (bs : List Byte) (r : Fin 32) (c : Fin 64) :
    (r, c) ∈ spritePixels cx cy row bs ↔
      ∃ i col, i < bs.length ∧ col < 8 ∧ r.val = (cy + (row + i)) % 32 ∧ c.val = (cx + col) % 64 ∧
        (bs.getD i 0).getLsbD (7 - col) = true := by
  induction bs generalizing row with
  | nil => simp [spritePixels]
  | cons b bs ih =>
    rw [spritePixels, List.mem_append, mem_spriteRowPixels, ih]
    constructor
    · rintro (⟨col, h1, h2, h3, h4⟩ | ⟨i, col, h0, h1, h2, h3, h4⟩)
      · exact ⟨0, col, by simp, h1, by simpa using h2, h3, by simpa using h4⟩
      · exact ⟨i + 1, col, by simpa using h0, h1, by rw [h2]; congr 1; omega, h3, by simpa using h4⟩
    · rintro ⟨i, col, h0, h1, h2, h3, h4⟩
      cases i with
      | zero => exact .inl ⟨col, h1, by simpa using h2, h3, by simpa using h4⟩
      | succ i => exact .inr ⟨i, col, by simpa using h0, h1, by rw [h2]; congr 1; omega, h3, by simpa using h4⟩

theorem nodup_spriteRowPixels (cx cy row : Nat) (b : Byte) : (spriteRowPixels cx cy row b).Nodup := by
  refine List.Nodup.map_on (fun i hi j hj h => ?_) (List.nodup_range.filter _)
  have hi := List.mem_range.mp (List.mem_filter.mp hi).1
  have hj := List.mem_range.mp (List.mem_filter.mp hj).1
  have h := congrArg Fin.val (Prod.mk.inj h).2
  simp only [Fin.val_ofNat] at h
  omega

/-- A sprite of at most 32 rows covers no pixel twice (R151 (c)). -/
theorem nodup_spritePixels (cx cy row : Nat) (bs : List Byte) (h : bs.length ≤ 32) :
    (spritePixels cx cy row bs).Nodup := by
  induction bs generalizing row with
  | nil => exact List.nodup_nil
  | cons b bs ih =>
    simp only [List.length_cons] at h
    rw [spritePixels]
    refine (nodup_spriteRowPixels cx cy row b).append (ih (row + 1) (by omega)) fun p hp hq => ?_
    obtain ⟨r, c⟩ := p
    obtain ⟨_, _, hr, _⟩ := (mem_spriteRowPixels ..).mp hp
    obtain ⟨i, _, hi, _, hr', _⟩ := (mem_spritePixels ..).mp hq
    omega

end Sys2Proof.Machine
end

