-- ==== Sys2Proof/Laws/State.lean ====
section
/-!
SUPPORT. What each update leaves in each field of State: one lemma per field and update, so that no later proof unfolds a
record update; and the same for the whole-state operations raise, beginStep and timerTick.
-/

namespace Sys2Proof.Machine

/-! ### setReg -/

@[simp] theorem State.setReg_pc (s : State) (r : RegIdx) (v : Byte) : (s.setReg r v).pc = s.pc := rfl
@[simp] theorem State.setReg_index (s : State) (r : RegIdx) (v : Byte) : (s.setReg r v).index = s.index := rfl
@[simp] theorem State.setReg_stack (s : State) (r : RegIdx) (v : Byte) : (s.setReg r v).stack = s.stack := rfl
@[simp] theorem State.setReg_sp (s : State) (r : RegIdx) (v : Byte) : (s.setReg r v).sp = s.sp := rfl
@[simp] theorem State.setReg_dt (s : State) (r : RegIdx) (v : Byte) : (s.setReg r v).dt = s.dt := rfl
@[simp] theorem State.setReg_st (s : State) (r : RegIdx) (v : Byte) : (s.setReg r v).st = s.st := rfl
@[simp] theorem State.setReg_key (s : State) (r : RegIdx) (v : Byte) : (s.setReg r v).key = s.key := rfl
@[simp] theorem State.setReg_disp (s : State) (r : RegIdx) (v : Byte) : (s.setReg r v).disp = s.disp := rfl
@[simp] theorem State.setReg_mem (s : State) (r : RegIdx) (v : Byte) : (s.setReg r v).mem = s.mem := rfl
@[simp] theorem State.setReg_run (s : State) (r : RegIdx) (v : Byte) : (s.setReg r v).run = s.run := rfl
@[simp] theorem State.setReg_fault (s : State) (r : RegIdx) (v : Byte) : (s.setReg r v).fault = s.fault := rfl
@[simp] theorem State.setReg_displayUpdated (s : State) (r : RegIdx) (v : Byte) : (s.setReg r v).displayUpdated = s.displayUpdated := rfl
@[simp] theorem State.setReg_settings (s : State) (r : RegIdx) (v : Byte) : (s.setReg r v).settings = s.settings := rfl
@[simp] theorem State.setReg_keysIn (s : State) (r : RegIdx) (v : Byte) : (s.setReg r v).keysIn = s.keysIn := rfl
@[simp] theorem State.setReg_rndIn (s : State) (r : RegIdx) (v : Byte) : (s.setReg r v).rndIn = s.rndIn := rfl
@[simp] theorem State.setReg_fresh (s : State) (r : RegIdx) (v : Byte) : (s.setReg r v).fresh = s.fresh := rfl

/-! ### setFlag -/

@[simp] theorem State.setFlag_pc (s : State) (v : Byte) : (s.setFlag v).pc = s.pc := rfl
@[simp] theorem State.setFlag_index (s : State) (v : Byte) : (s.setFlag v).index = s.index := rfl
@[simp] theorem State.setFlag_stack (s : State) (v : Byte) : (s.setFlag v).stack = s.stack := rfl
@[simp] theorem State.setFlag_sp (s : State) (v : Byte) : (s.setFlag v).sp = s.sp := rfl
@[simp] theorem State.setFlag_dt (s : State) (v : Byte) : (s.setFlag v).dt = s.dt := rfl
@[simp] theorem State.setFlag_st (s : State) (v : Byte) : (s.setFlag v).st = s.st := rfl
@[simp] theorem State.setFlag_key (s : State) (v : Byte) : (s.setFlag v).key = s.key := rfl
@[simp] theorem State.setFlag_disp (s : State) (v : Byte) : (s.setFlag v).disp = s.disp := rfl
@[simp] theorem State.setFlag_mem (s : State) (v : Byte) : (s.setFlag v).mem = s.mem := rfl
@[simp] theorem State.setFlag_run (s : State) (v : Byte) : (s.setFlag v).run = s.run := rfl
@[simp] theorem State.setFlag_fault (s : State) (v : Byte) : (s.setFlag v).fault = s.fault := rfl
@[simp] theorem State.setFlag_displayUpdated (s : State) (v : Byte) : (s.setFlag v).displayUpdated = s.displayUpdated := rfl
@[simp] theorem State.setFlag_settings (s : State) (v : Byte) : (s.setFlag v).settings = s.settings := rfl
@[simp] theorem State.setFlag_keysIn (s : State) (v : Byte) : (s.setFlag v).keysIn = s.keysIn := rfl
@[simp] theorem State.setFlag_rndIn (s : State) (v : Byte) : (s.setFlag v).rndIn = s.rndIn := rfl
@[simp] theorem State.setFlag_fresh (s : State) (v : Byte) : (s.setFlag v).fresh = s.fresh := rfl

/-! ### setPc -/

@[simp] theorem State.setPc_x (s : State) (v : Word) : (s.setPc v).x = s.x := rfl
@[simp] theorem State.setPc_pc (s : State) (v : Word) : (s.setPc v).pc = v := rfl
@[simp] theorem State.setPc_index (s : State) (v : Word) : (s.setPc v).index = s.index := rfl
@[simp] theorem State.setPc_stack (s : State) (v : Word) : (s.setPc v).stack = s.stack := rfl
@[simp] theorem State.setPc_sp (s : State) (v : Word) : (s.setPc v).sp = s.sp := rfl
@[simp] theorem State.setPc_dt (s : State) (v : Word) : (s.setPc v).dt = s.dt := rfl
@[simp] theorem State.setPc_st (s : State) (v : Word) : (s.setPc v).st = s.st := rfl
@[simp] theorem State.setPc_key (s : State) (v : Word) : (s.setPc v).key = s.key := rfl
@[simp] theorem State.setPc_disp (s : State) (v : Word) : (s.setPc v).disp = s.disp := rfl
@[simp] theorem State.setPc_mem (s : State) (v : Word) : (s.setPc v).mem = s.mem := rfl
@[simp] theorem State.setPc_run (s : State) (v : Word) : (s.setPc v).run = s.run := rfl
@[simp] theorem State.setPc_fault (s : State) (v : Word) : (s.setPc v).fault = s.fault := rfl
@[simp] theorem State.setPc_displayUpdated (s : State) (v : Word) : (s.setPc v).displayUpdated = s.displayUpdated := rfl
@[simp] theorem State.setPc_settings (s : State) (v : Word) : (s.setPc v).settings = s.settings := rfl
@[simp] theorem State.setPc_keysIn (s : State) (v : Word) : (s.setPc v).keysIn = s.keysIn := rfl
@[simp] theorem State.setPc_rndIn (s : State) (v : Word) : (s.setPc v).rndIn = s.rndIn := rfl
@[simp] theorem State.setPc_fresh (s : State) (v : Word) : (s.setPc v).fresh = s.fresh := rfl

/-! ### setIndex -/

@[simp] theorem State.setIndex_x (s : State) (v : Word) : (s.setIndex v).x = s.x := rfl
@[simp] theorem State.setIndex_pc (s : State) (v : Word) : (s.setIndex v).pc = s.pc := rfl
@[simp] theorem State.setIndex_index (s : State) (v : Word) : (s.setIndex v).index = v := rfl
@[simp] theorem State.setIndex_stack (s : State) (v : Word) : (s.setIndex v).stack = s.stack := rfl
@[simp] theorem State.setIndex_sp (s : State) (v : Word) : (s.setIndex v).sp = s.sp := rfl
@[simp] theorem State.setIndex_dt (s : State) (v : Word) : (s.setIndex v).dt = s.dt := rfl
@[simp] theorem State.setIndex_st (s : State) (v : Word) : (s.setIndex v).st = s.st := rfl
@[simp] theorem State.setIndex_key (s : State) (v : Word) : (s.setIndex v).key = s.key := rfl
@[simp] theorem State.setIndex_disp (s : State) (v : Word) : (s.setIndex v).disp = s.disp := rfl
@[simp] theorem State.setIndex_mem (s : State) (v : Word) : (s.setIndex v).mem = s.mem := rfl
@[simp] theorem State.setIndex_run (s : State) (v : Word) : (s.setIndex v).run = s.run := rfl
@[simp] theorem State.setIndex_fault (s : State) (v : Word) : (s.setIndex v).fault = s.fault := rfl
@[simp] theorem State.setIndex_displayUpdated (s : State) (v : Word) : (s.setIndex v).displayUpdated = s.displayUpdated := rfl
@[simp] theorem State.setIndex_settings (s : State) (v : Word) : (s.setIndex v).settings = s.settings := rfl
@[simp] theorem State.setIndex_keysIn (s : State) (v : Word) : (s.setIndex v).keysIn = s.keysIn := rfl
@[simp] theorem State.setIndex_rndIn (s : State) (v : Word) : (s.setIndex v).rndIn = s.rndIn := rfl
@[simp] theorem State.setIndex_fresh (s : State) (v : Word) : (s.setIndex v).fresh = s.fresh := rfl

/-! ### setDt -/

@[simp] theorem State.setDt_x (s : State) (v : Byte) : (s.setDt v).x = s.x := rfl
@[simp] theorem State.setDt_pc (s : State) (v : Byte) : (s.setDt v).pc = s.pc := rfl
@[simp] theorem State.setDt_index (s : State) (v : Byte) : (s.setDt v).index = s.index := rfl
@[simp] theorem State.setDt_stack (s : State) (v : Byte) : (s.setDt v).stack = s.stack := rfl
@[simp] theorem State.setDt_sp (s : State) (v : Byte) : (s.setDt v).sp = s.sp := rfl
@[simp] theorem State.setDt_dt (s : State) (v : Byte) : (s.setDt v).dt = v := rfl
@[simp] theorem State.setDt_st (s : State) (v : Byte) : (s.setDt v).st = s.st := rfl
@[simp] theorem State.setDt_key (s : State) (v : Byte) : (s.setDt v).key = s.key := rfl
@[simp] theorem State.setDt_disp (s : State) (v : Byte) : (s.setDt v).disp = s.disp := rfl
@[simp] theorem State.setDt_mem (s : State) (v : Byte) : (s.setDt v).mem = s.mem := rfl
@[simp] theorem State.setDt_run (s : State) (v : Byte) : (s.setDt v).run = s.run := rfl
@[simp] theorem State.setDt_fault (s : State) (v : Byte) : (s.setDt v).fault = s.fault := rfl
@[simp] theorem State.setDt_displayUpdated (s : State) (v : Byte) : (s.setDt v).displayUpdated = s.displayUpdated := rfl
@[simp] theorem State.setDt_settings (s : State) (v : Byte) : (s.setDt v).settings = s.settings := rfl
@[simp] theorem State.setDt_keysIn (s : State) (v : Byte) : (s.setDt v).keysIn = s.keysIn := rfl
@[simp] theorem State.setDt_rndIn (s : State) (v : Byte) : (s.setDt v).rndIn = s.rndIn := rfl
@[simp] theorem State.setDt_fresh (s : State) (v : Byte) : (s.setDt v).fresh = s.fresh := rfl

/-! ### setSt -/

@[simp] theorem State.setSt_x (s : State) (v : Byte) : (s.setSt v).x = s.x := rfl
@[simp] theorem State.setSt_pc (s : State) (v : Byte) : (s.setSt v).pc = s.pc := rfl
@[simp] theorem State.setSt_index (s : State) (v : Byte) : (s.setSt v).index = s.index := rfl
@[simp] theorem State.setSt_stack (s : State) (v : Byte) : (s.setSt v).stack = s.stack := rfl
@[simp] theorem State.setSt_sp (s : State) (v : Byte) : (s.setSt v).sp = s.sp := rfl
@[simp] theorem State.setSt_dt (s : State) (v : Byte) : (s.setSt v).dt = s.dt := rfl
@[simp] theorem State.setSt_st (s : State) (v : Byte) : (s.setSt v).st = v := rfl
@[simp] theorem State.setSt_key (s : State) (v : Byte) : (s.setSt v).key = s.key := rfl
@[simp] theorem State.setSt_disp (s : State) (v : Byte) : (s.setSt v).disp = s.disp := rfl
@[simp] theorem State.setSt_mem (s : State) (v : Byte) : (s.setSt v).mem = s.mem := rfl
@[simp] theorem State.setSt_run (s : State) (v : Byte) : (s.setSt v).run = s.run := rfl
@[simp] theorem State.setSt_fault (s : State) (v : Byte) : (s.setSt v).fault = s.fault := rfl
@[simp] theorem State.setSt_displayUpdated (s : State) (v : Byte) : (s.setSt v).displayUpdated = s.displayUpdated := rfl
@[simp] theorem State.setSt_settings (s : State) (v : Byte) : (s.setSt v).settings = s.settings := rfl
@[simp] theorem State.setSt_keysIn (s : State) (v : Byte) : (s.setSt v).keysIn = s.keysIn := rfl
@[simp] theorem State.setSt_rndIn (s : State) (v : Byte) : (s.setSt v).rndIn = s.rndIn := rfl
@[simp] theorem State.setSt_fresh (s : State) (v : Byte) : (s.setSt v).fresh = s.fresh := rfl

/-! ### setRun -/

@[simp] theorem State.setRun_x (s : State) (v : Run) : (s.setRun v).x = s.x := rfl
@[simp] theorem State.setRun_pc (s : State) (v : Run) : (s.setRun v).pc = s.pc := rfl
@[simp] theorem State.setRun_index (s : State) (v : Run) : (s.setRun v).index = s.index := rfl
@[simp] theorem State.setRun_stack (s : State) (v : Run) : (s.setRun v).stack = s.stack := rfl
@[simp] theorem State.setRun_sp (s : State) (v : Run) : (s.setRun v).sp = s.sp := rfl
@[simp] theorem State.setRun_dt (s : State) (v : Run) : (s.setRun v).dt = s.dt := rfl
@[simp] theorem State.setRun_st (s : State) (v : Run) : (s.setRun v).st = s.st := rfl
@[simp] theorem State.setRun_key (s : State) (v : Run) : (s.setRun v).key = s.key := rfl
@[simp] theorem State.setRun_disp (s : State) (v : Run) : (s.setRun v).disp = s.disp := rfl
@[simp] theorem State.setRun_mem (s : State) (v : Run) : (s.setRun v).mem = s.mem := rfl
@[simp] theorem State.setRun_run (s : State) (v : Run) : (s.setRun v).run = v := rfl
@[simp] theorem State.setRun_fault (s : State) (v : Run) : (s.setRun v).fault = s.fault := rfl
@[simp] theorem State.setRun_displayUpdated (s : State) (v : Run) : (s.setRun v).displayUpdated = s.displayUpdated := rfl
@[simp] theorem State.setRun_settings (s : State) (v : Run) : (s.setRun v).settings = s.settings := rfl
@[simp] theorem State.setRun_keysIn (s : State) (v : Run) : (s.setRun v).keysIn = s.keysIn := rfl
@[simp] theorem State.setRun_rndIn (s : State) (v : Run) : (s.setRun v).rndIn = s.rndIn := rfl
@[simp] theorem State.setRun_fresh (s : State) (v : Run) : (s.setRun v).fresh = s.fresh := rfl

/-! ### setFresh -/

@[simp] theorem State.setFresh_x (s : State) (v : Nat) : (s.setFresh v).x = s.x := rfl
@[simp] theorem State.setFresh_pc (s : State) (v : Nat) : (s.setFresh v).pc = s.pc := rfl
@[simp] theorem State.setFresh_index (s : State) (v : Nat) : (s.setFresh v).index = s.index := rfl
@[simp] theorem State.setFresh_stack (s : State) (v : Nat) : (s.setFresh v).stack = s.stack := rfl
@[simp] theorem State.setFresh_sp (s : State) (v : Nat) : (s.setFresh v).sp = s.sp := rfl
@[simp] theorem State.setFresh_dt (s : State) (v : Nat) : (s.setFresh v).dt = s.dt := rfl
@[simp] theorem State.setFresh_st (s : State) (v : Nat) : (s.setFresh v).st = s.st := rfl
@[simp] theorem State.setFresh_key (s : State) (v : Nat) : (s.setFresh v).key = s.key := rfl
@[simp] theorem State.setFresh_disp (s : State) (v : Nat) : (s.setFresh v).disp = s.disp := rfl
@[simp] theorem State.setFresh_mem (s : State) (v : Nat) : (s.setFresh v).mem = s.mem := rfl
@[simp] theorem State.setFresh_run (s : State) (v : Nat) : (s.setFresh v).run = s.run := rfl
@[simp] theorem State.setFresh_fault (s : State) (v : Nat) : (s.setFresh v).fault = s.fault := rfl
@[simp] theorem State.setFresh_displayUpdated (s : State) (v : Nat) : (s.setFresh v).displayUpdated = s.displayUpdated := rfl
@[simp] theorem State.setFresh_settings (s : State) (v : Nat) : (s.setFresh v).settings = s.settings := rfl
@[simp] theorem State.setFresh_keysIn (s : State) (v : Nat) : (s.setFresh v).keysIn = s.keysIn := rfl
@[simp] theorem State.setFresh_rndIn (s : State) (v : Nat) : (s.setFresh v).rndIn = s.rndIn := rfl
@[simp] theorem State.setFresh_fresh (s : State) (v : Nat) : (s.setFresh v).fresh = v := rfl

/-! ### skip -/

@[simp] theorem State.skip_x (s : State) : (s.skip).x = s.x := rfl
@[simp] theorem State.skip_pc (s : State) : (s.skip).pc = s.pc + 2 := rfl
@[simp] theorem State.skip_index (s : State) : (s.skip).index = s.index := rfl
@[simp] theorem State.skip_stack (s : State) : (s.skip).stack = s.stack := rfl
@[simp] theorem State.skip_sp (s : State) : (s.skip).sp = s.sp := rfl
@[simp] theorem State.skip_dt (s : State) : (s.skip).dt = s.dt := rfl
@[simp] theorem State.skip_st (s : State) : (s.skip).st = s.st := rfl
@[simp] theorem State.skip_key (s : State) : (s.skip).key = s.key := rfl
@[simp] theorem State.skip_disp (s : State) : (s.skip).disp = s.disp := rfl
@[simp] theorem State.skip_mem (s : State) : (s.skip).mem = s.mem := rfl
@[simp] theorem State.skip_run (s : State) : (s.skip).run = s.run := rfl
@[simp] theorem State.skip_fault (s : State) : (s.skip).fault = s.fault := rfl
@[simp] theorem State.skip_displayUpdated (s : State) : (s.skip).displayUpdated = s.displayUpdated := rfl
@[simp] theorem State.skip_settings (s : State) : (s.skip).settings = s.settings := rfl
@[simp] theorem State.skip_keysIn (s : State) : (s.skip).keysIn = s.keysIn := rfl
@[simp] theorem State.skip_rndIn (s : State) : (s.skip).rndIn = s.rndIn := rfl
@[simp] theorem State.skip_fresh (s : State) : (s.skip).fresh = s.fresh := rfl

/-! ### skipIf -/

@[simp] theorem State.skipIf_pc (s : State) (c : Bool) : (s.skipIf c).pc = if c then s.pc + 2 else s.pc := by cases c <;> rfl
@[simp] theorem State.skipIf_x (s : State) (c : Bool) : (s.skipIf c).x = s.x := by cases c <;> rfl
@[simp] theorem State.skipIf_index (s : State) (c : Bool) : (s.skipIf c).index = s.index := by cases c <;> rfl
@[simp] theorem State.skipIf_stack (s : State) (c : Bool) : (s.skipIf c).stack = s.stack := by cases c <;> rfl
@[simp] theorem State.skipIf_sp (s : State) (c : Bool) : (s.skipIf c).sp = s.sp := by cases c <;> rfl
@[simp] theorem State.skipIf_dt (s : State) (c : Bool) : (s.skipIf c).dt = s.dt := by cases c <;> rfl
@[simp] theorem State.skipIf_st (s : State) (c : Bool) : (s.skipIf c).st = s.st := by cases c <;> rfl
@[simp] theorem State.skipIf_key (s : State) (c : Bool) : (s.skipIf c).key = s.key := by cases c <;> rfl
@[simp] theorem State.skipIf_disp (s : State) (c : Bool) : (s.skipIf c).disp = s.disp := by cases c <;> rfl
@[simp] theorem State.skipIf_mem (s : State) (c : Bool) : (s.skipIf c).mem = s.mem := by cases c <;> rfl
@[simp] theorem State.skipIf_run (s : State) (c : Bool) : (s.skipIf c).run = s.run := by cases c <;> rfl
@[simp] theorem State.skipIf_fault (s : State) (c : Bool) : (s.skipIf c).fault = s.fault := by cases c <;> rfl
@[simp] theorem State.skipIf_displayUpdated (s : State) (c : Bool) : (s.skipIf c).displayUpdated = s.displayUpdated := by cases c <;> rfl
@[simp] theorem State.skipIf_settings (s : State) (c : Bool) : (s.skipIf c).settings = s.settings := by cases c <;> rfl
@[simp] theorem State.skipIf_keysIn (s : State) (c : Bool) : (s.skipIf c).keysIn = s.keysIn := by cases c <;> rfl
@[simp] theorem State.skipIf_rndIn (s : State) (c : Bool) : (s.skipIf c).rndIn = s.rndIn := by cases c <;> rfl
@[simp] theorem State.skipIf_fresh (s : State) (c : Bool) : (s.skipIf c).fresh = s.fresh := by cases c <;> rfl

/-! ### writeResultThenFlag -/

@[simp] theorem writeResultThenFlag_pc (s : State) (x : RegIdx) (a b : Byte) : (writeResultThenFlag s x a b).pc = s.pc := rfl
@[simp] theorem writeResultThenFlag_index (s : State) (x : RegIdx) (a b : Byte) : (writeResultThenFlag s x a b).index = s.index := rfl
@[simp] theorem writeResultThenFlag_stack (s : State) (x : RegIdx) (a b : Byte) : (writeResultThenFlag s x a b).stack = s.stack := rfl
@[simp] theorem writeResultThenFlag_sp (s : State) (x : RegIdx) (a b : Byte) : (writeResultThenFlag s x a b).sp = s.sp := rfl
@[simp] theorem writeResultThenFlag_dt (s : State) (x : RegIdx) (a b : Byte) : (writeResultThenFlag s x a b).dt = s.dt := rfl
@[simp] theorem writeResultThenFlag_st (s : State) (x : RegIdx) (a b : Byte) : (writeResultThenFlag s x a b).st = s.st := rfl
@[simp] theorem writeResultThenFlag_key (s : State) (x : RegIdx) (a b : Byte) : (writeResultThenFlag s x a b).key = s.key := rfl
@[simp] theorem writeResultThenFlag_disp (s : State) (x : RegIdx) (a b : Byte) : (writeResultThenFlag s x a b).disp = s.disp := rfl
@[simp] theorem writeResultThenFlag_mem (s : State) (x : RegIdx) (a b : Byte) : (writeResultThenFlag s x a b).mem = s.mem := rfl
@[simp] theorem writeResultThenFlag_run (s : State) (x : RegIdx) (a b : Byte) : (writeResultThenFlag s x a b).run = s.run := rfl
@[simp] theorem writeResultThenFlag_fault (s : State) (x : RegIdx) (a b : Byte) : (writeResultThenFlag s x a b).fault = s.fault := rfl
@[simp] theorem writeResultThenFlag_displayUpdated (s : State) (x : RegIdx) (a b : Byte) : (writeResultThenFlag s x a b).displayUpdated = s.displayUpdated := rfl
@[simp] theorem writeResultThenFlag_settings (s : State) (x : RegIdx) (a b : Byte) : (writeResultThenFlag s x a b).settings = s.settings := rfl
@[simp] theorem writeResultThenFlag_keysIn (s : State) (x : RegIdx) (a b : Byte) : (writeResultThenFlag s x a b).keysIn = s.keysIn := rfl
@[simp] theorem writeResultThenFlag_rndIn (s : State) (x : RegIdx) (a b : Byte) : (writeResultThenFlag s x a b).rndIn = s.rndIn := rfl
@[simp] theorem writeResultThenFlag_fresh (s : State) (x : RegIdx) (a b : Byte) : (writeResultThenFlag s x a b).fresh = s.fresh := rfl

/-! ### setMem -/

@[simp] theorem State.setMem_x (s : State) (m : Memory) : (s.setMem m).x = s.x := rfl
@[simp] theorem State.setMem_pc (s : State) (m : Memory) : (s.setMem m).pc = s.pc := rfl
@[simp] theorem State.setMem_index (s : State) (m : Memory) : (s.setMem m).index = s.index := rfl
@[simp] theorem State.setMem_stack (s : State) (m : Memory) : (s.setMem m).stack = s.stack := rfl
@[simp] theorem State.setMem_sp (s : State) (m : Memory) : (s.setMem m).sp = s.sp := rfl
@[simp] theorem State.setMem_dt (s : State) (m : Memory) : (s.setMem m).dt = s.dt := rfl
@[simp] theorem State.setMem_st (s : State) (m : Memory) : (s.setMem m).st = s.st := rfl
@[simp] theorem State.setMem_key (s : State) (m : Memory) : (s.setMem m).key = s.key := rfl
@[simp] theorem State.setMem_disp (s : State) (m : Memory) : (s.setMem m).disp = s.disp := rfl
@[simp] theorem State.setMem_mem (s : State) (m : Memory) : (s.setMem m).mem = m := rfl
@[simp] theorem State.setMem_run (s : State) (m : Memory) : (s.setMem m).run = s.run := rfl
@[simp] theorem State.setMem_fault (s : State) (m : Memory) : (s.setMem m).fault = s.fault := rfl
@[simp] theorem State.setMem_displayUpdated (s : State) (m : Memory) : (s.setMem m).displayUpdated = s.displayUpdated := rfl
@[simp] theorem State.setMem_settings (s : State) (m : Memory) : (s.setMem m).settings = s.settings := rfl
@[simp] theorem State.setMem_keysIn (s : State) (m : Memory) : (s.setMem m).keysIn = s.keysIn := rfl
@[simp] theorem State.setMem_rndIn (s : State) (m : Memory) : (s.setMem m).rndIn = s.rndIn := rfl
@[simp] theorem State.setMem_fresh (s : State) (m : Memory) : (s.setMem m).fresh = s.fresh := rfl

/-! ### setSp -/

@[simp] theorem State.setSp_x (s : State) (v : Fin 17) : (s.setSp v).x = s.x := rfl
@[simp] theorem State.setSp_pc (s : State) (v : Fin 17) : (s.setSp v).pc = s.pc := rfl
@[simp] theorem State.setSp_index (s : State) (v : Fin 17) : (s.setSp v).index = s.index := rfl
@[simp] theorem State.setSp_stack (s : State) (v : Fin 17) : (s.setSp v).stack = s.stack := rfl
@[simp] theorem State.setSp_sp (s : State) (v : Fin 17) : (s.setSp v).sp = v := rfl
@[simp] theorem State.setSp_dt (s : State) (v : Fin 17) : (s.setSp v).dt = s.dt := rfl
@[simp] theorem State.setSp_st (s : State) (v : Fin 17) : (s.setSp v).st = s.st := rfl
@[simp] theorem State.setSp_key (s : State) (v : Fin 17) : (s.setSp v).key = s.key := rfl
@[simp] theorem State.setSp_disp (s : State) (v : Fin 17) : (s.setSp v).disp = s.disp := rfl
@[simp] theorem State.setSp_mem (s : State) (v : Fin 17) : (s.setSp v).mem = s.mem := rfl
@[simp] theorem State.setSp_run (s : State) (v : Fin 17) : (s.setSp v).run = s.run := rfl
@[simp] theorem State.setSp_fault (s : State) (v : Fin 17) : (s.setSp v).fault = s.fault := rfl
@[simp] theorem State.setSp_displayUpdated (s : State) (v : Fin 17) : (s.setSp v).displayUpdated = s.displayUpdated := rfl
@[simp] theorem State.setSp_settings (s : State) (v : Fin 17) : (s.setSp v).settings = s.settings := rfl
@[simp] theorem State.setSp_keysIn (s : State) (v : Fin 17) : (s.setSp v).keysIn = s.keysIn := rfl
@[simp] theorem State.setSp_rndIn (s : State) (v : Fin 17) : (s.setSp v).rndIn = s.rndIn := rfl
@[simp] theorem State.setSp_fresh (s : State) (v : Fin 17) : (s.setSp v).fresh = s.fresh := rfl

/-! ### setStack -/

@[simp] theorem State.setStack_x (s : State) (v : Vector Word 16) : (s.setStack v).x = s.x := rfl
@[simp] theorem State.setStack_pc (s : State) (v : Vector Word 16) : (s.setStack v).pc = s.pc := rfl
@[simp] theorem State.setStack_index (s : State) (v : Vector Word 16) : (s.setStack v).index = s.index := rfl
@[simp] theorem State.setStack_stack (s : State) (v : Vector Word 16) : (s.setStack v).stack = v := rfl
@[simp] theorem State.setStack_sp (s : State) (v : Vector Word 16) : (s.setStack v).sp = s.sp := rfl
@[simp] theorem State.setStack_dt (s : State) (v : Vector Word 16) : (s.setStack v).dt = s.dt := rfl
@[simp] theorem State.setStack_st (s : State) (v : Vector Word 16) : (s.setStack v).st = s.st := rfl
@[simp] theorem State.setStack_key (s : State) (v : Vector Word 16) : (s.setStack v).key = s.key := rfl
@[simp] theorem State.setStack_disp (s : State) (v : Vector Word 16) : (s.setStack v).disp = s.disp := rfl
@[simp] theorem State.setStack_mem (s : State) (v : Vector Word 16) : (s.setStack v).mem = s.mem := rfl
@[simp] theorem State.setStack_run (s : State) (v : Vector Word 16) : (s.setStack v).run = s.run := rfl
@[simp] theorem State.setStack_fault (s : State) (v : Vector Word 16) : (s.setStack v).fault = s.fault := rfl
@[simp] theorem State.setStack_displayUpdated (s : State) (v : Vector Word 16) : (s.setStack v).displayUpdated = s.displayUpdated := rfl
@[simp] theorem State.setStack_settings (s : State) (v : Vector Word 16) : (s.setStack v).settings = s.settings := rfl
@[simp] theorem State.setStack_keysIn (s : State) (v : Vector Word 16) : (s.setStack v).keysIn = s.keysIn := rfl
@[simp] theorem State.setStack_rndIn (s : State) (v : Vector Word 16) : (s.setStack v).rndIn = s.rndIn := rfl
@[simp] theorem State.setStack_fresh (s : State) (v : Vector Word 16) : (s.setStack v).fresh = s.fresh := rfl

/-! ### showDisplay -/

@[simp] theorem State.showDisplay_x (s : State) (d : Display) : (s.showDisplay d).x = s.x := rfl
@[simp] theorem State.showDisplay_pc (s : State) (d : Display) : (s.showDisplay d).pc = s.pc := rfl
@[simp] theorem State.showDisplay_index (s : State) (d : Display) : (s.showDisplay d).index = s.index := rfl
@[simp] theorem State.showDisplay_stack (s : State) (d : Display) : (s.showDisplay d).stack = s.stack := rfl
@[simp] theorem State.showDisplay_sp (s : State) (d : Display) : (s.showDisplay d).sp = s.sp := rfl
@[simp] theorem State.showDisplay_dt (s : State) (d : Display) : (s.showDisplay d).dt = s.dt := rfl
@[simp] theorem State.showDisplay_st (s : State) (d : Display) : (s.showDisplay d).st = s.st := rfl
@[simp] theorem State.showDisplay_key (s : State) (d : Display) : (s.showDisplay d).key = s.key := rfl
@[simp] theorem State.showDisplay_disp (s : State) (d : Display) : (s.showDisplay d).disp = d := rfl
@[simp] theorem State.showDisplay_mem (s : State) (d : Display) : (s.showDisplay d).mem = s.mem := rfl
@[simp] theorem State.showDisplay_run (s : State) (d : Display) : (s.showDisplay d).run = s.run := rfl
@[simp] theorem State.showDisplay_fault (s : State) (d : Display) : (s.showDisplay d).fault = s.fault := rfl
@[simp] theorem State.showDisplay_displayUpdated (s : State) (d : Display) : (s.showDisplay d).displayUpdated = true := rfl
@[simp] theorem State.showDisplay_settings (s : State) (d : Display) : (s.showDisplay d).settings = s.settings := rfl
@[simp] theorem State.showDisplay_keysIn (s : State) (d : Display) : (s.showDisplay d).keysIn = s.keysIn := rfl
@[simp] theorem State.showDisplay_rndIn (s : State) (d : Display) : (s.showDisplay d).rndIn = s.rndIn := rfl
@[simp] theorem State.showDisplay_fresh (s : State) (d : Display) : (s.showDisplay d).fresh = s.fresh := rfl

/-! ### raise -/

@[simp] theorem raise_run (e : FatalError) (s : State) : (raise e s).run = .faulted e.kind := rfl
@[simp] theorem raise_fault (e : FatalError) (s : State) : (raise e s).fault = ⟨errorCode e.kind, e.info⟩ := rfl
@[simp] theorem raise_displayUpdated (e : FatalError) (s : State) : (raise e s).displayUpdated = false := rfl
@[simp] theorem raise_settings (e : FatalError) (s : State) : (raise e s).settings = s.settings := rfl
@[simp] theorem raise_keysIn (e : FatalError) (s : State) : (raise e s).keysIn = s.keysIn := rfl
@[simp] theorem raise_rndIn (e : FatalError) (s : State) : (raise e s).rndIn = s.rndIn := rfl
@[simp] theorem raise_fresh (e : FatalError) (s : State) : (raise e s).fresh = s.fresh + 1 := rfl
@[simp] theorem raise_mem (e : FatalError) (s : State) : (raise e s).mem = Memory.tabulate (Config.faultedByte s.fresh) := rfl

/-! ### timerTick -/

@[simp] theorem timerTick_x (s : State) : (timerTick s).x = s.x := rfl
@[simp] theorem timerTick_pc (s : State) : (timerTick s).pc = s.pc := rfl
@[simp] theorem timerTick_index (s : State) : (timerTick s).index = s.index := rfl
@[simp] theorem timerTick_stack (s : State) : (timerTick s).stack = s.stack := rfl
@[simp] theorem timerTick_sp (s : State) : (timerTick s).sp = s.sp := rfl
@[simp] theorem timerTick_dt (s : State) : (timerTick s).dt = tickTimer s.dt := rfl
@[simp] theorem timerTick_st (s : State) : (timerTick s).st = tickTimer s.st := rfl
@[simp] theorem timerTick_key (s : State) : (timerTick s).key = s.key := rfl
@[simp] theorem timerTick_disp (s : State) : (timerTick s).disp = s.disp := rfl
@[simp] theorem timerTick_mem (s : State) : (timerTick s).mem = s.mem := rfl
@[simp] theorem timerTick_run (s : State) : (timerTick s).run = s.run := rfl
@[simp] theorem timerTick_fault (s : State) : (timerTick s).fault = s.fault := rfl
@[simp] theorem timerTick_displayUpdated (s : State) : (timerTick s).displayUpdated = s.displayUpdated := rfl
@[simp] theorem timerTick_settings (s : State) : (timerTick s).settings = s.settings := rfl
@[simp] theorem timerTick_keysIn (s : State) : (timerTick s).keysIn = s.keysIn := rfl
@[simp] theorem timerTick_rndIn (s : State) : (timerTick s).rndIn = s.rndIn := rfl
@[simp] theorem timerTick_fresh (s : State) : (timerTick s).fresh = s.fresh := rfl

/-! ### sampleKeys and beginStep -/

@[simp] theorem sampleKeys_x (s : State) : (sampleKeys s).x = s.x := by unfold sampleKeys; split <;> rfl
@[simp] theorem sampleKeys_pc (s : State) : (sampleKeys s).pc = s.pc := by unfold sampleKeys; split <;> rfl
@[simp] theorem sampleKeys_index (s : State) : (sampleKeys s).index = s.index := by unfold sampleKeys; split <;> rfl
@[simp] theorem sampleKeys_stack (s : State) : (sampleKeys s).stack = s.stack := by unfold sampleKeys; split <;> rfl
@[simp] theorem sampleKeys_sp (s : State) : (sampleKeys s).sp = s.sp := by unfold sampleKeys; split <;> rfl
@[simp] theorem sampleKeys_dt (s : State) : (sampleKeys s).dt = s.dt := by unfold sampleKeys; split <;> rfl
@[simp] theorem sampleKeys_st (s : State) : (sampleKeys s).st = s.st := by unfold sampleKeys; split <;> rfl
@[simp] theorem sampleKeys_disp (s : State) : (sampleKeys s).disp = s.disp := by unfold sampleKeys; split <;> rfl
@[simp] theorem sampleKeys_mem (s : State) : (sampleKeys s).mem = s.mem := by unfold sampleKeys; split <;> rfl
@[simp] theorem sampleKeys_run (s : State) : (sampleKeys s).run = s.run := by unfold sampleKeys; split <;> rfl
@[simp] theorem sampleKeys_fault (s : State) : (sampleKeys s).fault = s.fault := by unfold sampleKeys; split <;> rfl
@[simp] theorem sampleKeys_displayUpdated (s : State) : (sampleKeys s).displayUpdated = s.displayUpdated := by unfold sampleKeys; split <;> rfl
@[simp] theorem sampleKeys_settings (s : State) : (sampleKeys s).settings = s.settings := by unfold sampleKeys; split <;> rfl
@[simp] theorem sampleKeys_rndIn (s : State) : (sampleKeys s).rndIn = s.rndIn := by unfold sampleKeys; split <;> rfl
@[simp] theorem beginStep_x (s : State) : (beginStep s).x = s.x := by simp [beginStep]
@[simp] theorem beginStep_pc (s : State) : (beginStep s).pc = s.pc := by simp [beginStep]
@[simp] theorem beginStep_index (s : State) : (beginStep s).index = s.index := by simp [beginStep]
@[simp] theorem beginStep_stack (s : State) : (beginStep s).stack = s.stack := by simp [beginStep]
@[simp] theorem beginStep_sp (s : State) : (beginStep s).sp = s.sp := by simp [beginStep]
@[simp] theorem beginStep_dt (s : State) : (beginStep s).dt = s.dt := by simp [beginStep]
@[simp] theorem beginStep_st (s : State) : (beginStep s).st = s.st := by simp [beginStep]
@[simp] theorem beginStep_disp (s : State) : (beginStep s).disp = s.disp := by simp [beginStep]
@[simp] theorem beginStep_mem (s : State) : (beginStep s).mem = s.mem := by simp [beginStep]
@[simp] theorem beginStep_run (s : State) : (beginStep s).run = s.run := by simp [beginStep]
@[simp] theorem beginStep_fault (s : State) : (beginStep s).fault = s.fault := by simp [beginStep]
@[simp] theorem beginStep_displayUpdated (s : State) : (beginStep s).displayUpdated = false := by simp [beginStep]
@[simp] theorem beginStep_settings (s : State) : (beginStep s).settings = s.settings := by simp [beginStep]
@[simp] theorem beginStep_rndIn (s : State) : (beginStep s).rndIn = s.rndIn := by simp [beginStep]

/-! ### drawRnd -/

@[simp] theorem drawRnd_x (s : State) : (drawRnd s).2.x = s.x := by unfold drawRnd; split <;> rfl
@[simp] theorem drawRnd_pc (s : State) : (drawRnd s).2.pc = s.pc := by unfold drawRnd; split <;> rfl
@[simp] theorem drawRnd_index (s : State) : (drawRnd s).2.index = s.index := by unfold drawRnd; split <;> rfl
@[simp] theorem drawRnd_stack (s : State) : (drawRnd s).2.stack = s.stack := by unfold drawRnd; split <;> rfl
@[simp] theorem drawRnd_sp (s : State) : (drawRnd s).2.sp = s.sp := by unfold drawRnd; split <;> rfl
@[simp] theorem drawRnd_dt (s : State) : (drawRnd s).2.dt = s.dt := by unfold drawRnd; split <;> rfl
@[simp] theorem drawRnd_st (s : State) : (drawRnd s).2.st = s.st := by unfold drawRnd; split <;> rfl
@[simp] theorem drawRnd_key (s : State) : (drawRnd s).2.key = s.key := by unfold drawRnd; split <;> rfl
@[simp] theorem drawRnd_disp (s : State) : (drawRnd s).2.disp = s.disp := by unfold drawRnd; split <;> rfl
@[simp] theorem drawRnd_mem (s : State) : (drawRnd s).2.mem = s.mem := by unfold drawRnd; split <;> rfl
@[simp] theorem drawRnd_run (s : State) : (drawRnd s).2.run = s.run := by unfold drawRnd; split <;> rfl
@[simp] theorem drawRnd_fault (s : State) : (drawRnd s).2.fault = s.fault := by unfold drawRnd; split <;> rfl
@[simp] theorem drawRnd_displayUpdated (s : State) : (drawRnd s).2.displayUpdated = s.displayUpdated := by unfold drawRnd; split <;> rfl
@[simp] theorem drawRnd_settings (s : State) : (drawRnd s).2.settings = s.settings := by unfold drawRnd; split <;> rfl
@[simp] theorem drawRnd_keysIn (s : State) : (drawRnd s).2.keysIn = s.keysIn := by unfold drawRnd; split <;> rfl

end Sys2Proof.Machine
end

