-- ==== Sys2Proof/Laws/Memory.lean ====
section
/-!
SUPPORT. The laws of memory: a read after a write, and that every memory operation keeps the canonical form.
-/

namespace Sys2Proof.Machine

theorem Memory.read_erase (m : Memory) (a a' : Nat) :
    (Memory.erase m a).read a' = if a = a' then unlistedByte else m.read a' := by
  induction m with
  | nil => simp [Memory.erase, Memory.read]
  | cons e m ih =>
    obtain ⟨k, v⟩ := e
    by_cases hk : k = a
    · subst hk
      simp only [Memory.erase, if_pos, ih, Memory.read]
      split <;> rfl
    · simp only [Memory.erase, if_neg hk, Memory.read, ih]
      by_cases h : a = a'
      · subst h; simp [hk]
      · simp [h]

theorem Memory.read_insert (m : Memory) (a a' : Nat) (b : Byte) (h : m.read a = unlistedByte)
    (hm : ∀ e ∈ m, e.1 ≠ a) : (Memory.insert m a b).read a' = if a = a' then b else m.read a' := by
  induction m with
  | nil => simp [Memory.insert, Memory.read]
  | cons e m ih =>
    obtain ⟨k, v⟩ := e
    have hk : k ≠ a := hm _ (List.mem_cons_self ..)
    have hr : Memory.read m a = unlistedByte := by simpa [Memory.read, hk] using h
    have ih := ih hr fun e he => hm e (List.mem_cons_of_mem _ he)
    simp only [Memory.insert]
    split
    · simp [Memory.read]
    · by_cases h1 : k = a'
      · subst h1; simp [Memory.read, Ne.symm hk]
      · simp [Memory.read, h1, ih]

theorem Memory.erase_ne (m : Memory) (a : Nat) : ∀ e ∈ Memory.erase m a, e.1 ≠ a := by
  induction m with
  | nil => simp [Memory.erase]
  | cons e m ih =>
    obtain ⟨k, v⟩ := e
    simp only [Memory.erase]
    split
    · exact ih
    · rename_i hk
      simpa [hk] using ih

/-- A read after a write gives the value written there, and elsewhere what was there before. -/
theorem Memory.read_write (m : Memory) (a a' : Nat) (b : Byte) :
    (m.write a b).read a' = if a = a' then b else m.read a' := by
  unfold Memory.write
  split
  · rename_i hb; rw [Memory.read_erase, hb]
  · rw [Memory.read_insert _ _ _ _ (by simp [Memory.read_erase]) (Memory.erase_ne m a), Memory.read_erase]
    split <;> rfl

theorem Memory.wfFrom_mono {lo lo' : Nat} {m : Memory} (h : lo' ≤ lo) (hm : Memory.wfFrom lo m) :
    Memory.wfFrom lo' m := by
  cases m with
  | nil => rfl
  | cons e m =>
    simp only [Memory.wfFrom, Bool.and_eq_true, decide_eq_true_eq] at hm ⊢
    exact ⟨⟨⟨h.trans hm.1.1.1, hm.1.1.2⟩, hm.1.2⟩, hm.2⟩

theorem Memory.wfFrom_erase {lo : Nat} {m : Memory} (a : Nat) (hm : Memory.wfFrom lo m) :
    Memory.wfFrom lo (Memory.erase m a) := by
  induction m generalizing lo with
  | nil => rfl
  | cons e m ih =>
    obtain ⟨k, v⟩ := e
    simp only [Memory.wfFrom, Bool.and_eq_true, decide_eq_true_eq] at hm
    obtain ⟨⟨⟨h1, h2⟩, h3⟩, h4⟩ := hm
    simp only [Memory.erase]
    split
    · exact ih (Memory.wfFrom_mono (by omega) h4)
    · simp only [Memory.wfFrom, Bool.and_eq_true, decide_eq_true_eq]
      exact ⟨⟨⟨h1, h2⟩, h3⟩, ih h4⟩

theorem Memory.wfFrom_insert {lo a : Nat} {m : Memory} {b : Byte} (hm : Memory.wfFrom lo m) (hlo : lo ≤ a)
    (ha : a < memSize) (hb : b ≠ unlistedByte) (hne : ∀ e ∈ m, e.1 ≠ a) : Memory.wfFrom lo (Memory.insert m a b) := by
  induction m generalizing lo with
  | nil => simp [Memory.insert, Memory.wfFrom, hlo, ha, hb]
  | cons e m ih =>
    obtain ⟨k, v⟩ := e
    have hk : k ≠ a := hne _ (List.mem_cons_self ..)
    simp only [Memory.wfFrom, Bool.and_eq_true, decide_eq_true_eq] at hm
    obtain ⟨⟨⟨h1, h2⟩, h3⟩, h4⟩ := hm
    simp only [Memory.insert]
    split
    · simp only [Memory.wfFrom, Bool.and_eq_true, decide_eq_true_eq, bne_iff_ne, ne_eq]
      exact ⟨⟨⟨hlo, ha⟩, hb⟩, ⟨⟨by omega, h2⟩, by simpa using h3⟩, h4⟩
    · simp only [Memory.wfFrom, Bool.and_eq_true, decide_eq_true_eq]
      exact ⟨⟨⟨h1, h2⟩, h3⟩, ih h4 (by omega) fun e he => hne e (List.mem_cons_of_mem _ he)⟩

/-- A write to an address that exists keeps the canonical form. -/
theorem Memory.wf_write {m : Memory} {a : Nat} (b : Byte) (hm : m.wf) (ha : a < memSize) : (m.write a b).wf := by
  unfold Memory.write
  split
  · exact Memory.wfFrom_erase a hm
  · rename_i hb
    exact Memory.wfFrom_insert (Memory.wfFrom_erase a hm) (Nat.zero_le a) ha hb (Memory.erase_ne m a)

theorem Memory.wfFrom_filterMap (f : Nat → Byte) (n : Nat) : ∀ lo, lo + n ≤ memSize →
    Memory.wfFrom lo ((List.range' lo n).filterMap fun a => if f a = unlistedByte then none else some (a, f a)) := by
  induction n with
  | zero => intros; rfl
  | succ n ih =>
    intro lo h
    have ih := ih (lo + 1) (by omega)
    rw [List.range'_succ]
    by_cases hf : f lo = unlistedByte
    · simpa [List.filterMap_cons, hf] using Memory.wfFrom_mono (Nat.le_succ lo) ih
    · have : lo < memSize := by omega
      simpa [List.filterMap_cons, hf, Memory.wfFrom, this] using ih

/-- A tabulated memory is in canonical form. -/
theorem Memory.wf_tabulate (f : Nat → Byte) : (Memory.tabulate f).wf := by
  have h := Memory.wfFrom_filterMap f memSize 0 (Nat.le_of_eq (Nat.zero_add memSize))
  rw [← List.range_eq_range'] at h
  unfold Memory.tabulate Memory.wf
  exact h

/-- The memory at reset is in canonical form. -/
theorem reset_mem_wf : State.reset.mem.wf := rfl

/-- Taking a fatal error leaves memory in canonical form. -/
theorem raise_mem_wf (e : FatalError) (s : State) : (raise e s).mem.wf := Memory.wf_tabulate _

/-- Placing a byte keeps the canonical form. -/
theorem State.poke_mem_wf {s : State} (a : Nat) (b : Byte) (h : s.mem.wf) : (s.poke a b).mem.wf := by
  unfold State.poke
  split
  · rename_i ha; exact Memory.wf_write b h ha
  · exact h

theorem placeBytes_mem_wf {s : State} (a : Nat) (bs : List Byte) (h : s.mem.wf) : (placeBytes s a bs).mem.wf := by
  induction bs generalizing s a with
  | nil => exact h
  | cons b bs ih => exact ih (a + 1) (State.poke_mem_wf a b h)

end Sys2Proof.Machine
end

