-- ==== Sys2Proof/Laws/Ops.lean ====
section
/-!
SUPPORT. What each named operation can do, said once: registers, block accesses to memory, the stack, the key pick.
-/

namespace Sys2Proof.Machine

/-! ## Registers -/

@[simp] theorem State.reg_setReg (s : State) (r r' : RegIdx) (v : Byte) :
    (s.setReg r v).reg r' = if r = r' then v else s.reg r' := by
  unfold State.setReg State.reg
  simp only [Vector.getElem_set]
  congr 1
  exact propext BitVec.toNat_inj

@[simp] theorem State.reg_setFlag (s : State) (r : RegIdx) (v : Byte) :
    (s.setFlag v).reg r = if 15 = r then v else s.reg r := State.reg_setReg ..

@[simp] theorem State.reg_setPc (s : State) (v : Word) (r : RegIdx) : (s.setPc v).reg r = s.reg r := rfl
@[simp] theorem State.reg_setIndex (s : State) (v : Word) (r : RegIdx) : (s.setIndex v).reg r = s.reg r := rfl
@[simp] theorem State.reg_setDt (s : State) (v : Byte) (r : RegIdx) : (s.setDt v).reg r = s.reg r := rfl
@[simp] theorem State.reg_setSt (s : State) (v : Byte) (r : RegIdx) : (s.setSt v).reg r = s.reg r := rfl
@[simp] theorem State.reg_setRun (s : State) (v : Run) (r : RegIdx) : (s.setRun v).reg r = s.reg r := rfl
@[simp] theorem State.reg_setFresh (s : State) (n : Nat) (r : RegIdx) : (s.setFresh n).reg r = s.reg r := rfl
@[simp] theorem State.reg_setSp (s : State) (v : Fin 17) (r : RegIdx) : (s.setSp v).reg r = s.reg r := rfl
@[simp] theorem State.reg_setStack (s : State) (v : Vector Word 16) (r : RegIdx) : (s.setStack v).reg r = s.reg r := rfl
@[simp] theorem State.reg_showDisplay (s : State) (d : Display) (r : RegIdx) : (s.showDisplay d).reg r = s.reg r := rfl
@[simp] theorem State.reg_setMem (s : State) (m : Memory) (r : RegIdx) : (s.setMem m).reg r = s.reg r := rfl
@[simp] theorem State.reg_skip (s : State) (r : RegIdx) : s.skip.reg r = s.reg r := rfl
@[simp] theorem State.reg_skipIf (s : State) (c : Bool) (r : RegIdx) : (s.skipIf c).reg r = s.reg r := by cases c <;> rfl
@[simp] theorem State.reg_timerTick (s : State) (r : RegIdx) : (timerTick s).reg r = s.reg r := rfl

/-- Two states with the same registers read alike. -/
theorem State.reg_congr {s t : State} (h : t.x = s.x) (r : RegIdx) : t.reg r = s.reg r := by
  simp only [State.reg, h]

@[simp] theorem State.reg_beginStep (s : State) (r : RegIdx) : (beginStep s).reg r = s.reg r :=
  State.reg_congr (beginStep_x s) r

@[simp] theorem State.reg_drawRnd (s : State) (r : RegIdx) : (drawRnd s).2.reg r = s.reg r :=
  State.reg_congr (drawRnd_x s) r

/-- The result goes to `x[X]` and the flag to `x[15]`, which it keeps when X = 15. -/
theorem reg_writeResultThenFlag (s : State) (x r : RegIdx) (result flag : Byte) :
    (writeResultThenFlag s x result flag).reg r = if r = 15 then flag else if r = x then result else s.reg r := by
  simp [writeResultThenFlag, eq_comm]

/-- A block of registers receives the bytes in order; the others stay. -/
theorem State.reg_setRegsFrom (s : State) (i : Nat) (bs : List Byte) (h : i + bs.length ≤ 16) (r : RegIdx) :
    (s.setRegsFrom i bs).reg r = if i ≤ r.toNat then bs.getD (r.toNat - i) (s.reg r) else s.reg r := by
  induction bs generalizing s i with
  | nil => simp [State.setRegsFrom]
  | cons b bs ih =>
    simp only [List.length_cons] at h
    have hi : (BitVec.ofNat 4 i : RegIdx).toNat = i := by simp; omega
    rw [State.setRegsFrom, ih _ _ (by omega), State.reg_setReg]
    by_cases hr : r.toNat = i
    · have : BitVec.ofNat 4 i = r := BitVec.eq_of_toNat_eq (by rw [hi, hr])
      simp [hr, this]
    · have : BitVec.ofNat 4 i ≠ r := fun e => hr (by rw [← e, hi])
      by_cases hl : i ≤ r.toNat
      · have h1 : i + 1 ≤ r.toNat := by omega
        have h2 : r.toNat - i = (r.toNat - (i + 1)) + 1 := by omega
        simp [this, hl, h1, h2]
      · have h1 : ¬ i + 1 ≤ r.toNat := by omega
        simp [this, hl, h1]

/-- Loading a block of registers changes nothing but registers. -/
theorem State.setRegsFrom_eq (s : State) (i : Nat) (bs : List Byte) :
    s.setRegsFrom i bs = { s with x := (s.setRegsFrom i bs).x } := by
  induction bs generalizing s i with
  | nil => rfl
  | cons b bs ih => rw [State.setRegsFrom, ih]; rfl

/-! ## Block accesses to memory -/

theorem memRead_in (s : State) {a : Nat} (h : a < 4096) : memRead s a = .ok (s.mem.read a) := if_pos h

theorem memRead_out (s : State) {a : Nat} (h : ¬ a < 4096) : memRead s a = .error (outOfBounds a) := if_neg h

theorem memWrite_in (s : State) {a : Nat} (b : Byte) (h : a < 4096) :
    memWrite s a b = .ok (s.setMem (s.mem.write a b)) := if_pos h

theorem memWrite_out (s : State) {a : Nat} (b : Byte) (h : ¬ a < 4096) : memWrite s a b = .error (outOfBounds a) :=
  if_neg h

/-- A block read gives the bytes in address order, or reports the first address out of range (R52, R53). -/
theorem readBytes_eq (s : State) (a n : Nat) :
    readBytes s a n = if n = 0 ∨ a + n ≤ 4096 then .ok ((List.range n).map fun i => s.mem.read (a + i))
      else .error (outOfBounds (max a 4096)) := by
  induction n generalizing a with
  | zero => simp [readBytes]
  | succ n ih =>
    by_cases ha : a < 4096
    · simp only [readBytes, memRead_in s ha, ih (a + 1)]
      by_cases hn : n = 0 ∨ a + 1 + n ≤ 4096
      · have h' : a + (n + 1) ≤ 4096 := by omega
        simp only [if_pos hn, if_pos (Or.inr h' : n + 1 = 0 ∨ a + (n + 1) ≤ 4096)]
        simp [List.range_succ_eq_map, Nat.add_assoc, Nat.add_comm 1]
      · have h' : ¬ (n + 1 = 0 ∨ a + (n + 1) ≤ 4096) := by omega
        have hm : max (a + 1) 4096 = max a 4096 := by omega
        simp only [if_neg hn, if_neg h', hm]
    · have h' : ¬ (n + 1 = 0 ∨ a + (n + 1) ≤ 4096) := by omega
      have hm : max a 4096 = a := by omega
      simp only [readBytes, memRead_out s ha, if_neg h', hm]

/-- A block write reports the first address out of range (R52, R53). -/
theorem writeBytes_error (s : State) (a : Nat) (bs : List Byte) (hb : bs ≠ []) (h : 4096 < a + bs.length) :
    writeBytes s a bs = .error (outOfBounds (max a 4096)) := by
  induction bs generalizing s a with
  | nil => exact absurd rfl hb
  | cons b bs ih =>
    simp only [List.length_cons] at h
    by_cases ha : a < 4096
    · have hne : bs ≠ [] := by rintro rfl; simp at h; omega
      have hm : max (a + 1) 4096 = max a 4096 := by omega
      simp only [writeBytes, memWrite_in s b ha]
      rw [ih _ _ hne (by omega), hm]
    · have hm : max a 4096 = a := by omega
      simp only [writeBytes, memWrite_out s b ha, hm]

/-- A block write within memory stores the bytes in address order, leaves every other byte, keeps the canonical form, and
changes nothing but memory (R53). -/
theorem writeBytes_ok (s : State) (a : Nat) (bs : List Byte) (h : a + bs.length ≤ 4096) :
    ∃ m : Memory, writeBytes s a bs = .ok (s.setMem m) ∧ (s.mem.wf → m.wf) ∧
      ∀ a', m.read a' = if a ≤ a' then bs.getD (a' - a) (s.mem.read a') else s.mem.read a' := by
  induction bs generalizing s a with
  | nil => exact ⟨s.mem, rfl, id, by simp⟩
  | cons b bs ih =>
    simp only [List.length_cons] at h
    have ha : a < 4096 := by omega
    obtain ⟨m, h1, h2, h3⟩ := ih (s.setMem (s.mem.write a b)) (a + 1) (by omega)
    refine ⟨m, ?_, fun hw => h2 (Memory.wf_write b hw ha), fun a' => ?_⟩
    · simp only [writeBytes, memWrite_in s b ha, h1]; rfl
    · rw [h3]
      simp only [State.setMem_mem, Memory.read_write]
      by_cases he : a = a'
      · subst he; simp
      · by_cases hl : a ≤ a'
        · have h4 : a + 1 ≤ a' := by omega
          have h5 : a' - a = (a' - (a + 1)) + 1 := by omega
          simp [he, hl, h4, h5]
        · have h4 : ¬ a + 1 ≤ a' := by omega
          simp [he, hl, h4]

/-! ## The stack -/

theorem State.push_full (s : State) (v : Word) (h : s.sp.val = 16) : s.push v = none := by
  simp [State.push, h]

theorem State.pop_empty (s : State) (h : s.sp.val = 0) : s.pop = none := by
  simp [State.pop, h]

/-- A push with room stores the value at the old top and counts up; nothing else changes. -/
theorem State.push_room (s : State) (v : Word) (k : Fin 16) (h : s.sp.val = k.val) :
    s.push v = some ((s.setStack (s.stack.set k.val v k.isLt)).setSp k.succ) := by
  have hk := k.isLt
  rw [State.push, dif_pos (by omega)]
  simp only [h]
  rfl

/-- A pop of a stack in use gives the newest entry and counts down; nothing else changes. -/
theorem State.pop_used (s : State) (k : Fin 16) (h : s.sp.val = k.val + 1) :
    s.pop = some (s.stack[k], s.setSp k.castSucc) := by
  rw [State.pop, dif_pos (by omega)]
  simp only [h]
  rfl

/-! ## The key wait -/

theorem mem_pressedKeys (key : Word) (k : Nat) : k ∈ pressedKeys key ↔ k < 16 ∧ key.getLsbD k = true := by
  simp [pressedKeys]

/-- No key is down exactly when the latch is zero (line 2 of R94). -/
theorem pressedKeys_eq_nil (key : Word) : pressedKeys key = [] ↔ key = 0 := by
  constructor
  · intro h
    refine BitVec.eq_of_getLsbD_eq fun i hi => ?_
    have : i ∉ pressedKeys key := by simp [h]
    rw [mem_pressedKeys] at this
    simp_all
  · rintro rfl; rfl

/-- With no key down nothing is stored. -/
theorem storePressedKey_none (r : RegIdx) (s : State) (h : s.key = 0) : storePressedKey r s = none := by
  simp [storePressedKey, pickKey, (pressedKeys_eq_nil s.key).mpr h]

/-- With a key down a pressed key is stored, the lowest one under the default KEYWAIT_PICK; nothing else changes but the
counter of free values. -/
theorem storePressedKey_some (r : RegIdx) (s : State) (h : s.key ≠ 0) :
    ∃ (k n : Nat), k < 16 ∧ s.key.getLsbD k = true ∧
      (s.settings.keywaitPick = .lowest → (∀ j < k, s.key.getLsbD j = false) ∧ n = s.fresh) ∧
      storePressedKey r s = some ((s.setFresh n).setReg r (BitVec.ofNat 8 k)) := by
  have hne : pressedKeys s.key ≠ [] := mt (pressedKeys_eq_nil s.key).mp h
  obtain ⟨k, ks, hk⟩ := List.exists_cons_of_ne_nil hne
  have hmem : ∀ j ∈ k :: ks, j < 16 ∧ s.key.getLsbD j = true := fun j hj => (mem_pressedKeys _ _).mp (hk ▸ hj)
  cases hp : s.settings.keywaitPick with
  | lowest =>
    refine ⟨k, s.fresh, (hmem k (List.mem_cons_self ..)).1, (hmem k (List.mem_cons_self ..)).2, fun _ => ⟨fun j hj => ?_, rfl⟩, ?_⟩
    · by_contra hb
      have hjm : j ∈ k :: ks := hk ▸ (mem_pressedKeys _ _).mpr
        ⟨by have := (hmem k (List.mem_cons_self ..)).1; omega, by simpa using hb⟩
      have hs : (k :: ks).Pairwise (· < ·) := hk ▸ (List.pairwise_lt_range).filter _
      rcases List.mem_cons.mp hjm with rfl | hj'
      · omega
      · have := (List.pairwise_cons.mp hs).1 j hj'; omega
    · simp only [storePressedKey, pickKey, hk, hp]; rfl
  | drawn =>
    have hlt : Config.freePick s.fresh % (k :: ks).length < (k :: ks).length := Nat.mod_lt _ (by simp)
    have hin : (k :: ks).getD (Config.freePick s.fresh % (k :: ks).length) k ∈ k :: ks := by
      rw [List.getD_eq_getElem _ _ hlt]; exact List.getElem_mem _
    exact ⟨_, s.fresh + 1, (hmem _ hin).1, (hmem _ hin).2, fun h => (nomatch h), by
      simp [storePressedKey, pickKey, hk, hp]⟩

/-! ## The timers -/

/-- A tick counts down by one and never below zero (R190). -/
@[simp] theorem toNat_tickTimer (t : Byte) : (tickTimer t).toNat = t.toNat - 1 := by
  unfold tickTimer
  split
  · rename_i h; simp [h]
  · rename_i h; bv_omega

end Sys2Proof.Machine
end

