-- ==== Sys2Proof/Laws/Exec.lean ====
section
/-!
SUPPORT. The two ways each instruction that can raise a fatal error ends, said once: within the bounds, or the error taken.
-/

namespace Sys2Proof.Machine

/-! ## Loading a block of registers changes registers only -/

@[simp] theorem State.setRegsFrom_pc (s : State) (i : Nat) (bs : List Byte) : (s.setRegsFrom i bs).pc = s.pc := by
  rw [State.setRegsFrom_eq]
@[simp] theorem State.setRegsFrom_index (s : State) (i : Nat) (bs : List Byte) : (s.setRegsFrom i bs).index = s.index := by
  rw [State.setRegsFrom_eq]
@[simp] theorem State.setRegsFrom_stack (s : State) (i : Nat) (bs : List Byte) : (s.setRegsFrom i bs).stack = s.stack := by
  rw [State.setRegsFrom_eq]
@[simp] theorem State.setRegsFrom_sp (s : State) (i : Nat) (bs : List Byte) : (s.setRegsFrom i bs).sp = s.sp := by
  rw [State.setRegsFrom_eq]
@[simp] theorem State.setRegsFrom_dt (s : State) (i : Nat) (bs : List Byte) : (s.setRegsFrom i bs).dt = s.dt := by
  rw [State.setRegsFrom_eq]
@[simp] theorem State.setRegsFrom_st (s : State) (i : Nat) (bs : List Byte) : (s.setRegsFrom i bs).st = s.st := by
  rw [State.setRegsFrom_eq]
@[simp] theorem State.setRegsFrom_key (s : State) (i : Nat) (bs : List Byte) : (s.setRegsFrom i bs).key = s.key := by
  rw [State.setRegsFrom_eq]
@[simp] theorem State.setRegsFrom_disp (s : State) (i : Nat) (bs : List Byte) : (s.setRegsFrom i bs).disp = s.disp := by
  rw [State.setRegsFrom_eq]
@[simp] theorem State.setRegsFrom_mem (s : State) (i : Nat) (bs : List Byte) : (s.setRegsFrom i bs).mem = s.mem := by
  rw [State.setRegsFrom_eq]
@[simp] theorem State.setRegsFrom_run (s : State) (i : Nat) (bs : List Byte) : (s.setRegsFrom i bs).run = s.run := by
  rw [State.setRegsFrom_eq]
@[simp] theorem State.setRegsFrom_fault (s : State) (i : Nat) (bs : List Byte) : (s.setRegsFrom i bs).fault = s.fault := by
  rw [State.setRegsFrom_eq]
@[simp] theorem State.setRegsFrom_displayUpdated (s : State) (i : Nat) (bs : List Byte) :
    (s.setRegsFrom i bs).displayUpdated = s.displayUpdated := by rw [State.setRegsFrom_eq]
@[simp] theorem State.setRegsFrom_settings (s : State) (i : Nat) (bs : List Byte) :
    (s.setRegsFrom i bs).settings = s.settings := by rw [State.setRegsFrom_eq]
@[simp] theorem State.setRegsFrom_keysIn (s : State) (i : Nat) (bs : List Byte) : (s.setRegsFrom i bs).keysIn = s.keysIn := by
  rw [State.setRegsFrom_eq]
@[simp] theorem State.setRegsFrom_rndIn (s : State) (i : Nat) (bs : List Byte) : (s.setRegsFrom i bs).rndIn = s.rndIn := by
  rw [State.setRegsFrom_eq]
@[simp] theorem State.setRegsFrom_fresh (s : State) (i : Nat) (bs : List Byte) : (s.setRegsFrom i bs).fresh = s.fresh := by
  rw [State.setRegsFrom_eq]

/-! ## The stack -/

theorem exec_call_room (s : State) (nnn : Addr12) (k : Fin 16) (h : s.sp.val = k.val) :
    exec (.call nnn) s =
      .next (((s.setStack (s.stack.set k.val s.pc k.isLt)).setSp k.succ).setPc (zextAddr nnn)) := by
  simp only [exec, execCall, State.push_room s s.pc k h]

theorem exec_call_full (s : State) (nnn : Addr12) (h : s.sp.val = 16) :
    exec (.call nnn) s = .next (raise ⟨.stackOverflow, s.pc⟩ s) := by
  simp only [exec, execCall, State.push_full s s.pc h]

theorem exec_ret_used (s : State) (k : Fin 16) (h : s.sp.val = k.val + 1) :
    exec .ret s = .next ((s.setSp k.castSucc).setPc s.stack[k]) := by
  simp only [exec, execRet, State.pop_used s k h]

theorem exec_ret_empty (s : State) (h : s.sp.val = 0) : exec .ret s = .next (raise ⟨.stackUnderflow, s.pc⟩ s) := by
  simp only [exec, execRet, State.pop_empty s h]

/-! ## Memory -/

theorem length_blockRegs (s : State) (x : RegIdx) : (blockRegs s x).length = x.toNat + 1 := by
  simp [blockRegs, blockLength]

theorem getD_blockRegs (s : State) (x : RegIdx) (k : Nat) (d : Byte) :
    (blockRegs s x).getD k d = if k ≤ x.toNat then s.reg (BitVec.ofNat 4 k) else d := by
  unfold blockRegs blockLength
  split
  · simp [List.getD_eq_getElem?_getD, show k < x.toNat + 1 by omega]
  · simp [List.getD_eq_getElem?_getD, show ¬ k < x.toNat + 1 by omega]

/-- The info word of an access that leaves memory from a base address on. -/
theorem outOfBounds_max (w : Word) :
    outOfBounds (max w.toNat 4096) = ⟨.outOfBoundsAccess, if 4095 < w.toNat then w else 0x1000⟩ := by
  unfold outOfBounds
  split
  · rw [show max w.toNat 4096 = w.toNat by omega]; simp
  · rw [show max w.toNat 4096 = 4096 by omega]; rfl

theorem exec_ldB_in (s : State) (x : RegIdx) (h : s.index.toNat + 2 ≤ 4095) :
    ∃ m : Memory, exec (.ldB x) s = .next (s.setMem m) ∧ (s.mem.wf → m.wf) ∧
      ∀ a, m.read a = if s.index.toNat ≤ a then (bcdDigits (s.reg x)).getD (a - s.index.toNat) (s.mem.read a)
        else s.mem.read a := by
  obtain ⟨m, h1, h2, h3⟩ := writeBytes_ok s s.index.toNat (bcdDigits (s.reg x)) (by simp [bcdDigits]; omega)
  exact ⟨m, by simp only [exec, execLdB, indexedAddr, Nat.add_zero, h1, orRaise], h2, h3⟩

theorem exec_ldB_out (s : State) (x : RegIdx) (h : 4095 < s.index.toNat + 2) :
    exec (.ldB x) s = .next (raise (outOfBounds (max s.index.toNat 4096)) s) := by
  have h1 := writeBytes_error s s.index.toNat (bcdDigits (s.reg x)) (by simp [bcdDigits]) (by simp [bcdDigits]; omega)
  simp only [exec, execLdB, indexedAddr, Nat.add_zero, h1, orRaise]

theorem exec_dumpRegs_in (s : State) (x : RegIdx) (h : s.index.toNat + x.toNat ≤ 4095) :
    ∃ m : Memory, exec (.dumpRegs x) s = .next (s.setMem m) ∧ (s.mem.wf → m.wf) ∧
      ∀ a, m.read a = if s.index.toNat ≤ a then (blockRegs s x).getD (a - s.index.toNat) (s.mem.read a)
        else s.mem.read a := by
  obtain ⟨m, h1, h2, h3⟩ := writeBytes_ok s s.index.toNat (blockRegs s x) (by rw [length_blockRegs]; omega)
  exact ⟨m, by simp only [exec, execDumpRegs, indexedAddr, Nat.add_zero, h1, orRaise], h2, h3⟩

theorem exec_dumpRegs_out (s : State) (x : RegIdx) (h : 4095 < s.index.toNat + x.toNat) :
    exec (.dumpRegs x) s = .next (raise (outOfBounds (max s.index.toNat 4096)) s) := by
  have h1 := writeBytes_error s s.index.toNat (blockRegs s x)
    (fun e => by have := length_blockRegs s x; simp [e] at this) (by rw [length_blockRegs]; omega)
  simp only [exec, execDumpRegs, indexedAddr, Nat.add_zero, h1, orRaise]

theorem exec_loadRegs_in (s : State) (x : RegIdx) (h : s.index.toNat + x.toNat ≤ 4095) :
    exec (.loadRegs x) s =
      .next (s.setRegsFrom 0 ((List.range (x.toNat + 1)).map fun i => s.mem.read (s.index.toNat + i))) := by
  have hr := readBytes_eq s s.index.toNat (blockLength x)
  rw [if_pos (by simp only [blockLength]; omega)] at hr
  simp only [exec, execLoadRegs, indexedAddr, Nat.add_zero, hr, Except.map, orRaise]; rfl

theorem exec_loadRegs_out (s : State) (x : RegIdx) (h : 4095 < s.index.toNat + x.toNat) :
    exec (.loadRegs x) s = .next (raise (outOfBounds (max s.index.toNat 4096)) s) := by
  have hr := readBytes_eq s s.index.toNat (blockLength x)
  rw [if_neg (by simp only [blockLength]; omega)] at hr
  simp only [exec, execLoadRegs, indexedAddr, Nat.add_zero, hr, Except.map, orRaise]

/-- The bytes of a sprite of `n` rows at `I`. -/
def spriteBytes (s : State) (n : Nibble) : List Byte :=
  (List.range n.toNat).map fun i => s.mem.read (s.index.toNat + i)

/-- The display after a sprite has been drawn, and the collision. -/
def drawnSprite (s : State) (x y : RegIdx) (n : Nibble) : Display × Bool :=
  drawPixels (spritePixels (s.reg x).toNat (s.reg y).toNat 0 (spriteBytes s n)) (s.disp, false)

theorem exec_drw_in (s : State) (x y : RegIdx) (n : Nibble) (h : n = 0 ∨ s.index.toNat + n.toNat ≤ 4096) :
    exec (.drw x y n) s =
      .next ((s.showDisplay (drawnSprite s x y n).1).setFlag (flagOf (drawnSprite s x y n).2)) := by
  have hr := readBytes_eq s s.index.toNat n.toNat
  rw [if_pos (h.imp_left fun e => by rw [e]; rfl)] at hr
  simp only [exec, execDrw, indexedAddr, Nat.add_zero, hr]
  rfl

theorem exec_drw_out (s : State) (x y : RegIdx) (n : Nibble) (hn : n ≠ 0) (h : 4096 < s.index.toNat + n.toNat) :
    exec (.drw x y n) s = .next (raise (outOfBounds (max s.index.toNat 4096)) s) := by
  have hr := readBytes_eq s s.index.toNat n.toNat
  rw [if_neg (fun hc => hc.elim (fun e => hn (BitVec.eq_of_toNat_eq e)) (by omega))] at hr
  simp only [exec, execDrw, indexedAddr, Nat.add_zero, hr]

/-! ## The key wait -/

theorem exec_ldVxK_none (s : State) (x : RegIdx) (h : s.key = 0) :
    exec (.ldVxK x) s = .next (s.setRun (.waitKey x)) := by
  simp only [exec, execLdVxK, storePressedKey_none x s h, Option.getD_none]

theorem exec_ldVxK_some (s : State) (x : RegIdx) (h : s.key ≠ 0) :
    ∃ (k n : Nat), k < 16 ∧ s.key.getLsbD k = true ∧
      (s.settings.keywaitPick = .lowest → (∀ j < k, s.key.getLsbD j = false) ∧ n = s.fresh) ∧
      exec (.ldVxK x) s = .next ((s.setFresh n).setReg x (BitVec.ofNat 8 k)) := by
  obtain ⟨k, n, h1, h2, h3, h4⟩ := storePressedKey_some x s h
  exact ⟨k, n, h1, h2, h3, by simp only [exec, execLdVxK, h4, Option.getD_some]⟩

/-! ## All instructions -/

/-- The instructions whose meaning has one path: it is a next state by definition, with no fatal error. -/
def hasOnePath : Instr → Bool
  | .ret | .call _ | .drw _ _ _ | .ldB _ | .dumpRegs _ | .loadRegs _ | .ldVxK _ => false
  | _ => true

/-- Every way an instruction can end: a fatal error taken, or completed. -/
theorem exec_cases {i : Instr} {s t : State} (h : exec i s = .next t) :
    (∃ e, t = raise e s) ∨
    (∃ k : Fin 16, i = .ret ∧ s.sp.val = k.val + 1 ∧ t = (s.setSp k.castSucc).setPc s.stack[k]) ∨
    (∃ n, ∃ k : Fin 16, i = .call n ∧ s.sp.val = k.val ∧
      t = ((s.setStack (s.stack.set k.val s.pc k.isLt)).setSp k.succ).setPc (zextAddr n)) ∨
    (∃ x y n d b, i = .drw x y n ∧ t = (s.showDisplay d).setFlag (flagOf b)) ∨
    (∃ x m, (i = .ldB x ∨ i = .dumpRegs x) ∧ t = s.setMem m ∧ (s.mem.wf → m.wf)) ∨
    (∃ x l, i = .loadRegs x ∧ l.length = x.toNat + 1 ∧ t = s.setRegsFrom 0 l) ∨
    (∃ x, i = .ldVxK x ∧ (t = s.setRun (.waitKey x) ∨ ∃ n v, t = (s.setFresh n).setReg x v)) ∨
    hasOnePath i = true := by
  cases i
  case ret =>
    by_cases h0 : s.sp.val = 0
    · rw [exec_ret_empty s h0] at h; injection h with h; exact .inl ⟨_, h.symm⟩
    · have hk : s.sp.val = (⟨s.sp.val - 1, by omega⟩ : Fin 16).val + 1 := by simp; omega
      rw [exec_ret_used s _ hk] at h; injection h with h
      exact .inr (.inl ⟨_, rfl, hk, h.symm⟩)
  case call n =>
    by_cases h0 : s.sp.val = 16
    · rw [exec_call_full s n h0] at h; injection h with h; exact .inl ⟨_, h.symm⟩
    · have hk : s.sp.val = (⟨s.sp.val, by omega⟩ : Fin 16).val := rfl
      rw [exec_call_room s n _ hk] at h; injection h with h
      exact .inr (.inr (.inl ⟨_, _, rfl, hk, h.symm⟩))
  case drw x y n =>
    by_cases h0 : n = 0 ∨ s.index.toNat + n.toNat ≤ 4096
    · rw [exec_drw_in s x y n h0] at h; injection h with h
      exact .inr (.inr (.inr (.inl ⟨_, _, _, _, _, rfl, h.symm⟩)))
    · rw [exec_drw_out s x y n (fun e => h0 (.inl e)) (by omega)] at h; injection h with h; exact .inl ⟨_, h.symm⟩
  case ldB x =>
    by_cases h0 : s.index.toNat + 2 ≤ 4095
    · obtain ⟨m, h1, h2, -⟩ := exec_ldB_in s x h0
      rw [h1] at h; injection h with h
      exact .inr (.inr (.inr (.inr (.inl ⟨_, _, .inl rfl, h.symm, h2⟩))))
    · rw [exec_ldB_out s x (by omega)] at h; injection h with h; exact .inl ⟨_, h.symm⟩
  case dumpRegs x =>
    by_cases h0 : s.index.toNat + x.toNat ≤ 4095
    · obtain ⟨m, h1, h2, -⟩ := exec_dumpRegs_in s x h0
      rw [h1] at h; injection h with h
      exact .inr (.inr (.inr (.inr (.inl ⟨_, _, .inr rfl, h.symm, h2⟩))))
    · rw [exec_dumpRegs_out s x (by omega)] at h; injection h with h; exact .inl ⟨_, h.symm⟩
  case loadRegs x =>
    by_cases h0 : s.index.toNat + x.toNat ≤ 4095
    · rw [exec_loadRegs_in s x h0] at h; injection h with h
      exact .inr (.inr (.inr (.inr (.inr (.inl ⟨_, _, rfl, by simp, h.symm⟩)))))
    · rw [exec_loadRegs_out s x (by omega)] at h; injection h with h; exact .inl ⟨_, h.symm⟩
  case ldVxK x =>
    by_cases h0 : s.key = 0
    · rw [exec_ldVxK_none s x h0] at h; injection h with h
      exact .inr (.inr (.inr (.inr (.inr (.inr (.inl ⟨_, rfl, .inl h.symm⟩))))))
    · obtain ⟨k, n, -, -, -, h4⟩ := exec_ldVxK_some s x h0
      rw [h4] at h; injection h with h
      exact .inr (.inr (.inr (.inr (.inr (.inr (.inl ⟨_, rfl, .inr ⟨_, _, h.symm⟩⟩))))))
  all_goals exact .inr (.inr (.inr (.inr (.inr (.inr (.inr rfl))))))

end Sys2Proof.Machine
end

