-- ==== Sys2Proof/Laws/Controller.lean ====
section
/-!
SUPPORT. What the fetch and the step can do, said once.
-/

namespace Sys2Proof.Machine

/-- The fetch gives the big-endian word at pc, or reports the first address out of range (R54). -/
theorem fetchWord_eq (s : State) :
    fetchWord s = if s.pc.toNat + 1 < 4096 then .ok (joinBytes (s.mem.read s.pc.toNat) (s.mem.read (s.pc.toNat + 1)))
      else .error (outOfBounds (max s.pc.toNat 4096)) := by
  unfold fetchWord
  by_cases h : s.pc.toNat + 1 < 4096
  · simp only [memRead_in s (show s.pc.toNat < 4096 by omega), memRead_in s h, if_pos h]
  · by_cases h0 : s.pc.toNat < 4096
    · have : max s.pc.toNat 4096 = s.pc.toNat + 1 := by omega
      simp only [memRead_in s h0, memRead_out s h, if_neg h, this]
    · have : max s.pc.toNat 4096 = s.pc.toNat := by omega
      simp only [memRead_out s h0, if_neg h, this]

/-- Every way a step of the controller can end (R90 to R94). -/
theorem step_cases {s : State} {o : Result} (h : step s = o) :
    (s.run = .running ∧ ∃ e, fetchWord (beginStep s) = .error e ∧ o = .next (raise e (beginStep s))) ∨
    (s.run = .running ∧ ∃ w e, fetchWord (beginStep s) = .ok w ∧ decodeWord w = .error e ∧
      o = .next (raise ⟨.unimplementedOpcode, w⟩ ((beginStep s).setPc (s.pc + 2)))) ∨
    (s.run = .running ∧ ∃ w i, fetchWord (beginStep s) = .ok w ∧ decodeWord w = .ok i ∧
      o = finishStep (exec i ((beginStep s).setPc (s.pc + 2)))) ∨
    (∃ r, s.run = .waitKey r ∧ ∃ t, storePressedKey r (beginStep s) = some t ∧
      o = .next (timerTick (t.setRun .running))) ∨
    (∃ r, s.run = .waitKey r ∧ storePressedKey r (beginStep s) = none ∧
      ((s.settings.keywaitTimers = .suspended ∧ o = .next (beginStep s)) ∨
       (s.settings.keywaitTimers = .running ∧ o = .next (timerTick (beginStep s))))) ∨
    ((s.run = .halted ∨ ∃ e, s.run = .faulted e) ∧ o = .next s) := by
  subst h
  unfold step controllerStep
  cases hr : s.run with
  | running =>
    unfold fetchAndExecute
    cases hf : fetchWord (beginStep s) with
    | error e => exact .inl ⟨rfl, e, rfl, rfl⟩
    | ok w =>
      cases hd : decodeWord w with
      | error e => exact .inr (.inl ⟨rfl, w, e, rfl, hd, by simp [hd]⟩)
      | ok i => exact .inr (.inr (.inl ⟨rfl, w, i, rfl, hd, by simp [hd]⟩))
  | waitKey r =>
    unfold pollKey
    cases hk : storePressedKey r (beginStep s) with
    | some t => exact .inr (.inr (.inr (.inl ⟨r, rfl, t, hk, by simp [hk]⟩)))
    | none =>
      refine .inr (.inr (.inr (.inr (.inl ⟨r, rfl, hk, ?_⟩))))
      cases hs : s.settings.keywaitTimers <;> simp [hk, hs]
  | halted => exact .inr (.inr (.inr (.inr (.inr ⟨.inl rfl, rfl⟩))))
  | faulted e => exact .inr (.inr (.inr (.inr (.inr ⟨.inr ⟨e, rfl⟩, rfl⟩))))

/-- The end of a Running step: one tick if the instruction completed, none otherwise (R90 lines 7 and 8). -/
theorem finishStep_next (t : State) :
    finishStep (.next t) = .next (if t.run = .running then timerTick t else t) := by
  unfold finishStep tickIfCompleted
  cases h : t.run <;> simp [h]

end Sys2Proof.Machine
end

