-- ==== Sys2Proof/Laws/Decode.lean ====
section
/-!
SUPPORT. The fields of an encoded word (spec/30_encoding.md R71, R83).
-/

namespace Sys2Proof

@[simp] theorem fieldClass_wordA (c : Nibble) (nnn : Addr12) : fieldClass (wordA c nnn) = c := by
  refine BitVec.eq_of_getLsbD_eq fun i hi => ?_
  simp only [fieldClass, wordA, BitVec.getLsbD_extractLsb', BitVec.getLsbD_append]
  simp [hi]
@[simp] theorem fieldNNN_wordA (c : Nibble) (nnn : Addr12) : fieldNNN (wordA c nnn) = nnn := by
  refine BitVec.eq_of_getLsbD_eq fun i hi => ?_
  simp only [fieldNNN, wordA, BitVec.getLsbD_extractLsb', BitVec.getLsbD_append]
  simp [hi]

@[simp] theorem fieldClass_wordXI (c : Nibble) (x : RegIdx) (nn : Byte) : fieldClass (wordXI c x nn) = c := by
  refine BitVec.eq_of_getLsbD_eq fun i hi => ?_
  simp only [fieldClass, wordXI, BitVec.getLsbD_extractLsb', BitVec.getLsbD_append]
  simp [hi]
@[simp] theorem fieldX_wordXI (c : Nibble) (x : RegIdx) (nn : Byte) : fieldX (wordXI c x nn) = x := by
  refine BitVec.eq_of_getLsbD_eq fun i hi => ?_
  simp only [fieldX, wordXI, BitVec.getLsbD_extractLsb', BitVec.getLsbD_append]
  simp [hi, show 8 + i < 12 by omega]
@[simp] theorem fieldNN_wordXI (c : Nibble) (x : RegIdx) (nn : Byte) : fieldNN (wordXI c x nn) = nn := by
  refine BitVec.eq_of_getLsbD_eq fun i hi => ?_
  simp only [fieldNN, wordXI, BitVec.getLsbD_extractLsb', BitVec.getLsbD_append]
  simp [hi, show i < 12 by omega]

@[simp] theorem fieldClass_wordXYN (c : Nibble) (x y : RegIdx) (n : Nibble) : fieldClass (wordXYN c x y n) = c := by
  refine BitVec.eq_of_getLsbD_eq fun i hi => ?_
  simp only [fieldClass, wordXYN, BitVec.getLsbD_extractLsb', BitVec.getLsbD_append]
  simp [hi]
@[simp] theorem fieldX_wordXYN (c : Nibble) (x y : RegIdx) (n : Nibble) : fieldX (wordXYN c x y n) = x := by
  refine BitVec.eq_of_getLsbD_eq fun i hi => ?_
  simp only [fieldX, wordXYN, BitVec.getLsbD_extractLsb', BitVec.getLsbD_append]
  simp [hi, show 8 + i < 12 by omega]
@[simp] theorem fieldY_wordXYN (c : Nibble) (x y : RegIdx) (n : Nibble) : fieldY (wordXYN c x y n) = y := by
  refine BitVec.eq_of_getLsbD_eq fun i hi => ?_
  simp only [fieldY, wordXYN, BitVec.getLsbD_extractLsb', BitVec.getLsbD_append]
  simp [hi, show 4 + i < 8 by omega, show 4 + i < 12 by omega]
@[simp] theorem fieldN_wordXYN (c : Nibble) (x y : RegIdx) (n : Nibble) : fieldN (wordXYN c x y n) = n := by
  refine BitVec.eq_of_getLsbD_eq fun i hi => ?_
  simp only [fieldN, wordXYN, BitVec.getLsbD_extractLsb', BitVec.getLsbD_append]
  simp [hi, show i < 8 by omega, show i < 12 by omega]

/-- A word is its class and its NNN. -/
theorem wordA_fields (w : Word) : wordA (fieldClass w) (fieldNNN w) = w := by
  refine BitVec.eq_of_getLsbD_eq fun i hi => ?_
  simp only [wordA, fieldClass, fieldNNN, BitVec.getLsbD_append, BitVec.getLsbD_extractLsb']
  by_cases h : i < 12
  · simp [h]
  · simp [h, show i - 12 < 4 by omega, show 12 + (i - 12) = i by omega]

/-- A word is its class, its X and its NN. -/
theorem wordXI_fields (w : Word) : wordXI (fieldClass w) (fieldX w) (fieldNN w) = w := by
  refine BitVec.eq_of_getLsbD_eq fun i hi => ?_
  simp only [wordXI, fieldClass, fieldX, fieldNN, BitVec.getLsbD_append, BitVec.getLsbD_extractLsb']
  by_cases h : i < 8
  · simp [h, show i < 12 by omega]
  · by_cases h2 : i < 12
    · simp [h, h2, show i - 8 < 4 by omega, show 8 + (i - 8) = i by omega]
    · simp [h2, show i - 12 < 4 by omega, show 12 + (i - 12) = i by omega]

/-- A word is its class, its X, its Y and its N. -/
theorem wordXYN_fields (w : Word) : wordXYN (fieldClass w) (fieldX w) (fieldY w) (fieldN w) = w := by
  refine BitVec.eq_of_getLsbD_eq fun i hi => ?_
  simp only [wordXYN, fieldClass, fieldX, fieldY, fieldN, BitVec.getLsbD_append, BitVec.getLsbD_extractLsb']
  by_cases h : i < 4
  · simp [h, show i < 8 by omega, show i < 12 by omega]
  · by_cases h1 : i < 8
    · simp [h, h1, show i < 12 by omega, show i - 4 < 4 by omega, show 4 + (i - 4) = i by omega]
    · by_cases h2 : i < 12
      · simp [h1, h2, show i - 8 < 4 by omega, show 8 + (i - 8) = i by omega]
      · simp [h2, show i - 12 < 4 by omega, show 12 + (i - 12) = i by omega]

/-- The two stored bytes of a word are the word again, high byte first (R54, R83). -/
theorem joinBytes_bytes (w : Word) : joinBytes (highByte w) (lowByte w) = w := by
  refine BitVec.eq_of_getLsbD_eq fun i hi => ?_
  simp only [joinBytes, highByte, lowByte, BitVec.getLsbD_append, BitVec.getLsbD_extractLsb']
  by_cases h : i < 8
  · simp [h]
  · simp [h, show i - 8 < 8 by omega, show 8 + (i - 8) = i by omega]

/-! ## The mask test of the opcode map, format by format -/

theorem wordA_and_F000 (c : Nibble) (nnn : Addr12) : wordA c nnn &&& 0xF000 = wordA c 0 := by
  refine BitVec.eq_of_getLsbD_eq fun i hi => ?_
  simp only [wordA, BitVec.getLsbD_and, BitVec.getLsbD_append]
  by_cases h : i < 12
  · interval_cases i <;> simp
  · interval_cases i <;> simp_all

theorem wordXI_and_F000 (c : Nibble) (x : RegIdx) (nn : Byte) : wordXI c x nn &&& 0xF000 = wordXI c 0 0 := by
  refine BitVec.eq_of_getLsbD_eq fun i hi => ?_
  simp only [wordXI, BitVec.getLsbD_and, BitVec.getLsbD_append]
  interval_cases i <;> simp

theorem wordXI_and_F0FF (c : Nibble) (x : RegIdx) (nn : Byte) : wordXI c x nn &&& 0xF0FF = wordXI c 0 nn := by
  refine BitVec.eq_of_getLsbD_eq fun i hi => ?_
  simp only [wordXI, BitVec.getLsbD_and, BitVec.getLsbD_append]
  interval_cases i <;> simp

theorem wordXYN_and_F000 (c : Nibble) (x y : RegIdx) (n : Nibble) : wordXYN c x y n &&& 0xF000 = wordXYN c 0 0 0 := by
  refine BitVec.eq_of_getLsbD_eq fun i hi => ?_
  simp only [wordXYN, BitVec.getLsbD_and, BitVec.getLsbD_append]
  interval_cases i <;> simp

theorem wordXYN_and_F00F (c : Nibble) (x y : RegIdx) (n : Nibble) : wordXYN c x y n &&& 0xF00F = wordXYN c 0 0 n := by
  refine BitVec.eq_of_getLsbD_eq fun i hi => ?_
  simp only [wordXYN, BitVec.getLsbD_and, BitVec.getLsbD_append]
  interval_cases i <;> simp

end Sys2Proof
end

