-- ==== Sys2Proof/Laws/PerInstr.lean ====
section
/-!
SUPPORT. Per instruction: the encoder's word is selected by the instruction's own row of the opcode map (spec/30_encoding.md
R75, R83). The masks and values of the map are a second account of the encodings, taken from the table, not from the encoder.
-/

namespace Sys2Proof.Laws.EncodedRow

/-- Some row of the opcode map has the instruction's mnemonic and selects the instruction's word. -/
def Statement (i : Instr) : Prop :=
  ∃ row ∈ opcodeMap, row.mnemonic = i.mnemonic ∧ row.selects (encode i) = true

/-- A row given by its mask, value and mnemonic. -/
theorem of_row {i : Instr} (mask value : Word) (name : String) (h : ⟨mask, value, name⟩ ∈ opcodeMap)
    (hn : name = i.mnemonic) (hw : encode i &&& mask = value) : Statement i :=
  ⟨_, h, hn, by simp [OpcodeRow.selects, hw]⟩

theorem halt : Statement (.halt) :=
  of_row 0xFFFF 0x0000 "HALT" (by decide) rfl (rfl)

theorem cls : Statement (.cls) :=
  of_row 0xFFFF 0x00E0 "CLS" (by decide) rfl (rfl)

theorem ret : Statement (.ret) :=
  of_row 0xFFFF 0x00EE "RET" (by decide) rfl (rfl)

theorem jp (nnn : Addr12) : Statement (.jp nnn) :=
  of_row 0xF000 0x1000 "JP_NNN" (by decide) rfl (by rw [encode, wordA_and_F000]; rfl)

theorem call (nnn : Addr12) : Statement (.call nnn) :=
  of_row 0xF000 0x2000 "CALL_NNN" (by decide) rfl (by rw [encode, wordA_and_F000]; rfl)

theorem seImm (x : RegIdx) (nn : Byte) : Statement (.seImm x nn) :=
  of_row 0xF000 0x3000 "SE_Vx__NN" (by decide) rfl (by rw [encode, wordXI_and_F000]; rfl)

theorem sneImm (x : RegIdx) (nn : Byte) : Statement (.sneImm x nn) :=
  of_row 0xF000 0x4000 "SNE_Vx__NN" (by decide) rfl (by rw [encode, wordXI_and_F000]; rfl)

theorem seReg (x y : RegIdx) : Statement (.seReg x y) :=
  of_row 0xF00F 0x5000 "SE_Vx__Vy" (by decide) rfl (by rw [encode, wordXYN_and_F00F]; rfl)

theorem ldImm (x : RegIdx) (nn : Byte) : Statement (.ldImm x nn) :=
  of_row 0xF000 0x6000 "LD_Vx__NN" (by decide) rfl (by rw [encode, wordXI_and_F000]; rfl)

theorem addImm (x : RegIdx) (nn : Byte) : Statement (.addImm x nn) :=
  of_row 0xF000 0x7000 "ADD_Vx__NN" (by decide) rfl (by rw [encode, wordXI_and_F000]; rfl)

theorem ldReg (x y : RegIdx) : Statement (.ldReg x y) :=
  of_row 0xF00F 0x8000 "LD_Vx__Vy" (by decide) rfl (by rw [encode, wordXYN_and_F00F]; rfl)

theorem orReg (x y : RegIdx) : Statement (.orReg x y) :=
  of_row 0xF00F 0x8001 "OR_Vx__Vy" (by decide) rfl (by rw [encode, wordXYN_and_F00F]; rfl)

theorem andReg (x y : RegIdx) : Statement (.andReg x y) :=
  of_row 0xF00F 0x8002 "AND_Vx__Vy" (by decide) rfl (by rw [encode, wordXYN_and_F00F]; rfl)

theorem xorReg (x y : RegIdx) : Statement (.xorReg x y) :=
  of_row 0xF00F 0x8003 "XOR_Vx__Vy" (by decide) rfl (by rw [encode, wordXYN_and_F00F]; rfl)

theorem addReg (x y : RegIdx) : Statement (.addReg x y) :=
  of_row 0xF00F 0x8004 "ADD_Vx__Vy" (by decide) rfl (by rw [encode, wordXYN_and_F00F]; rfl)

theorem subReg (x y : RegIdx) : Statement (.subReg x y) :=
  of_row 0xF00F 0x8005 "SUB_Vx__Vy" (by decide) rfl (by rw [encode, wordXYN_and_F00F]; rfl)

theorem shr (x y : RegIdx) : Statement (.shr x y) :=
  of_row 0xF00F 0x8006 "SHR_Vx" (by decide) rfl (by rw [encode, wordXYN_and_F00F]; rfl)

theorem subn (x y : RegIdx) : Statement (.subn x y) :=
  of_row 0xF00F 0x8007 "SUBN_Vx__Vy" (by decide) rfl (by rw [encode, wordXYN_and_F00F]; rfl)

theorem shl (x y : RegIdx) : Statement (.shl x y) :=
  of_row 0xF00F 0x800E "SHL_Vx" (by decide) rfl (by rw [encode, wordXYN_and_F00F]; rfl)

theorem sneReg (x y : RegIdx) : Statement (.sneReg x y) :=
  of_row 0xF00F 0x9000 "SNE_Vx__Vy" (by decide) rfl (by rw [encode, wordXYN_and_F00F]; rfl)

theorem ldI (nnn : Addr12) : Statement (.ldI nnn) :=
  of_row 0xF000 0xA000 "LD_I__NNN" (by decide) rfl (by rw [encode, wordA_and_F000]; rfl)

theorem jpV0 (nnn : Addr12) : Statement (.jpV0 nnn) :=
  of_row 0xF000 0xB000 "JP_V0__NNN" (by decide) rfl (by rw [encode, wordA_and_F000]; rfl)

theorem rnd (x : RegIdx) (nn : Byte) : Statement (.rnd x nn) :=
  of_row 0xF000 0xC000 "RND_Vx__NN" (by decide) rfl (by rw [encode, wordXI_and_F000]; rfl)

theorem drw (x y : RegIdx) (n : Nibble) : Statement (.drw x y n) :=
  of_row 0xF000 0xD000 "DRW_Vx__Vy__N" (by decide) rfl (by rw [encode, wordXYN_and_F000]; rfl)

theorem skp (x : RegIdx) : Statement (.skp x) :=
  of_row 0xF0FF 0xE09E "SKP_Vx" (by decide) rfl (by rw [encode, wordXI_and_F0FF]; rfl)

theorem sknp (x : RegIdx) : Statement (.sknp x) :=
  of_row 0xF0FF 0xE0A1 "SKNP_Vx" (by decide) rfl (by rw [encode, wordXI_and_F0FF]; rfl)

theorem ldVxDt (x : RegIdx) : Statement (.ldVxDt x) :=
  of_row 0xF0FF 0xF007 "LD_Vx__DT" (by decide) rfl (by rw [encode, wordXI_and_F0FF]; rfl)

theorem ldVxK (x : RegIdx) : Statement (.ldVxK x) :=
  of_row 0xF0FF 0xF00A "LD_Vx__K" (by decide) rfl (by rw [encode, wordXI_and_F0FF]; rfl)

theorem ldDtVx (x : RegIdx) : Statement (.ldDtVx x) :=
  of_row 0xF0FF 0xF015 "LD_DT__Vx" (by decide) rfl (by rw [encode, wordXI_and_F0FF]; rfl)

theorem ldStVx (x : RegIdx) : Statement (.ldStVx x) :=
  of_row 0xF0FF 0xF018 "LD_ST__Vx" (by decide) rfl (by rw [encode, wordXI_and_F0FF]; rfl)

theorem addI (x : RegIdx) : Statement (.addI x) :=
  of_row 0xF0FF 0xF01E "ADD_I__Vx" (by decide) rfl (by rw [encode, wordXI_and_F0FF]; rfl)

theorem ldF (x : RegIdx) : Statement (.ldF x) :=
  of_row 0xF0FF 0xF029 "LD_F__Vx" (by decide) rfl (by rw [encode, wordXI_and_F0FF]; rfl)

theorem ldB (x : RegIdx) : Statement (.ldB x) :=
  of_row 0xF0FF 0xF033 "LD_B__Vx" (by decide) rfl (by rw [encode, wordXI_and_F0FF]; rfl)

theorem dumpRegs (x : RegIdx) : Statement (.dumpRegs x) :=
  of_row 0xF0FF 0xF055 "LD__I___Vx" (by decide) rfl (by rw [encode, wordXI_and_F0FF]; rfl)

theorem loadRegs (x : RegIdx) : Statement (.loadRegs x) :=
  of_row 0xF0FF 0xF065 "LD_Vx___I" (by decide) rfl (by rw [encode, wordXI_and_F0FF]; rfl)

end Sys2Proof.Laws.EncodedRow
end

