-- ==== Sys2Proof/Tests/Slice0.lean ====
section
/-!
SUPPORT. Tests: words decoded as spec/30_encoding.md R75 writes them, ill-formed words and images refused, single-step vectors
of spec/95_test_vectors.md (each named), and for every obligation with hypotheses a witness that meets them.
-/

namespace Sys2Proof.Tests

open Sys2Proof.Machine

/-! ## Helpers -/

/-- The reset state with the first keypad sampling fixed to no key. -/
def ready : State := { State.reset with keysIn := [0] }

/-- The reset state with the first keypad sampling fixed. -/
def withKeys (k : Word) : State := { State.reset with keysIn := [k] }

/-- The reset state at another pc. -/
def readyAt (p : Word) : State := ready.setPc p

/-- A suspended LD V3,K with the next samplings fixed. -/
def waiting (ks : List Word) : State := { State.reset with run := .waitKey 3, pc := 0x202, dt := 9, keysIn := ks }

/-- The state with the settings replaced. -/
def withSettings (s : State) (c : Settings) : State := { s with settings := c }

/-- SUBN_ORDER and SHIFT_SOURCE at their alternatives. -/
def otherAlu : Settings := { Settings.default with subnOrder := .reversed, shiftSource := .fromY }

/-- KEYWAIT_TIMERS and KEYWAIT_PICK at their alternatives. -/
def otherKeywait : Settings := { Settings.default with keywaitTimers := .running, keywaitPick := .drawn }

/-- The state a step answers. -/
def stateOf (s : State) : Result → State
  | .next t => t
  | _       => s

/-- The state after one step that fetches the word. -/
def after (w : Nat) (s : State) : State := stateOf s (step (s.withFetchWord 16 w))

/-! ## Decoding: words written out bit by bit from R71, R74 and R75 -/

/-- Class 0 and the jumps (formats Z and A). -/
theorem test_decode_control :
    decodeWord 0b0000_0000_0000_0000 = .ok .halt ∧ decodeWord 0b0000_0000_1110_0000 = .ok .cls ∧
    decodeWord 0b0000_0000_1110_1110 = .ok .ret ∧ decodeWord 0b0001_0010_0011_0100 = .ok (.jp 0x234) ∧
    decodeWord 0b0010_1010_1011_1100 = .ok (.call 0xABC) ∧ decodeWord 0b1011_1111_1111_1111 = .ok (.jpV0 0xFFF) := by
  decide

/-- The skips (formats XI, XY and XS). -/
theorem test_decode_skips :
    decodeWord 0b0011_0100_1001_0001 = .ok (.seImm 4 0x91) ∧ decodeWord 0b0100_0011_0001_0001 = .ok (.sneImm 3 0x11) ∧
    decodeWord 0b0101_0001_0010_0000 = .ok (.seReg 1 2) ∧ decodeWord 0b1001_0001_0010_0000 = .ok (.sneReg 1 2) ∧
    decodeWord 0b1110_0100_1001_1110 = .ok (.skp 4) ∧ decodeWord 0b1110_0100_1010_0001 = .ok (.sknp 4) := by decide

/-- Loads, the add of an immediate and the random instruction (format XI), and the register load. -/
theorem test_decode_loads :
    decodeWord 0b0110_0011_0000_0111 = .ok (.ldImm 3 0x07) ∧ decodeWord 0b0111_1111_1000_0001 = .ok (.addImm 15 0x81) ∧
    decodeWord 0b1100_0011_0000_1111 = .ok (.rnd 3 0x0F) ∧ decodeWord 0b1000_1110_1111_0000 = .ok (.ldReg 14 15) := by decide

/-- Class 8 (format XY). -/
theorem test_decode_alu :
    decodeWord 0b1000_1010_1011_0001 = .ok (.orReg 10 11) ∧ decodeWord 0b1000_1010_1011_0010 = .ok (.andReg 10 11) ∧
    decodeWord 0b1000_1010_1011_0011 = .ok (.xorReg 10 11) ∧ decodeWord 0b1000_1010_1011_0100 = .ok (.addReg 10 11) ∧
    decodeWord 0b1000_1010_1011_0101 = .ok (.subReg 10 11) ∧ decodeWord 0b1000_1010_1011_0110 = .ok (.shr 10 11) ∧
    decodeWord 0b1000_1010_1011_0111 = .ok (.subn 10 11) ∧ decodeWord 0b1000_1010_1011_1110 = .ok (.shl 10 11) := by decide

/-- The index register and the display. -/
theorem test_decode_index_draw :
    decodeWord 0b1010_0010_0000_1110 = .ok (.ldI 0x20E) ∧ decodeWord 0b1101_0000_0001_0010 = .ok (.drw 0 1 2) := by decide

/-- Class F (format XS). -/
theorem test_decode_class_f :
    decodeWord 0b1111_0001_0000_0111 = .ok (.ldVxDt 1) ∧ decodeWord 0b1111_0011_0000_1010 = .ok (.ldVxK 3) ∧
    decodeWord 0b1111_0000_0001_0101 = .ok (.ldDtVx 0) ∧ decodeWord 0b1111_1010_0001_1000 = .ok (.ldStVx 10) ∧
    decodeWord 0b1111_0010_0001_1110 = .ok (.addI 2) ∧ decodeWord 0b1111_0101_0010_1001 = .ok (.ldF 5) ∧
    decodeWord 0b1111_0000_0011_0011 = .ok (.ldB 0) ∧ decodeWord 0b1111_0001_0101_0101 = .ok (.dumpRegs 1) ∧
    decodeWord 0b1111_0010_0110_0101 = .ok (.loadRegs 2) := by decide

/-- Bytes in memory order (R54, R83): FET-1 and P1a's image. -/
theorem test_decode_bytes :
    decodeBytes [0x12, 0x34, 0x56] = .ok (.jp 0x234, [0x56]) ∧ decodeBytes [0x80, 0x14] = .ok (.addReg 0 1, []) ∧
    encodeBytes (.addReg 0 1) = [0x80, 0x14] := by decide

/-- R75: no two rows overlap. -/
theorem test_rows_apart : opcodeMap.Pairwise (fun r r' => r.apart r' = true) := by decide

/-- R75 lists 35 operations. -/
theorem test_rows_count : opcodeMap.length = 35 := by decide

/-! ## WellFormed smoke tests: ill-formed words and images refused -/

/-- UNI-1 and UNI-2: classes 0, 5 and 9. -/
theorem test_refused_0_5_9 : [0x0001, 0x00E1, 0x00EF, 0x0123, 0x0FFF, 0x5121, 0x512F, 0x9AB1].all (fun w : Word =>
    !wordImplemented w && decide (decodeWord w = .error (.unimplemented w))) = true := by decide

/-- UNI-3: class 8. -/
theorem test_refused_8 : [0x8AB8, 0x8AB9, 0x8ABA, 0x8ABB, 0x8ABC, 0x8ABD, 0x8ABF].all (fun w : Word =>
    !wordImplemented w && decide (decodeWord w = .error (.unimplemented w))) = true := by decide

/-- UNI-4 and UNI-5: classes E and F. -/
theorem test_refused_e_f : [0xE19F, 0xE1A0, 0xE000, 0xE1FF, 0xF000, 0xF108, 0xF11F, 0xF130, 0xF156, 0xF175, 0xF185,
    0xFFFF].all (fun w : Word => !wordImplemented w && decide (decodeWord w = .error (.unimplemented w))) = true := by decide

/-- Fewer than two bytes hold no instruction. -/
theorem test_refused_truncated : decodeBytes [0x12] = .error .truncated := by decide

/-- LOAD-1 and LOAD-2: 3584 bytes fit, 3585 do not. -/
theorem test_image_length :
    imageFits (List.replicate 3584 0) = true ∧ imageFits (List.replicate 3585 0) = false := by
  simp only [imageFits, List.length_replicate]; decide

/-! ## Fetch and controller -/

/-- FET-2: an odd pc is legal. -/
theorem test_fetch_odd : (after 0x6307 (readyAt 0x201)).reg 3 = 0x07 ∧ (after 0x6307 (readyAt 0x201)).pc = 0x203 := by decide

/-- FET-3: the last word of memory. -/
theorem test_fetch_last : (after 0x6A01 (readyAt 0xFFE)).reg 10 = 0x01 ∧ (after 0x6A01 (readyAt 0xFFE)).pc = 0x1000 := by
  decide

/-- FET-4 and FET-5: the first address out of range. -/
theorem test_fetch_outside : (after 0 (readyAt 0xFFF)).fault = ⟨4, 0x1000⟩ ∧ (after 0 (readyAt 0x1002)).fault = ⟨4, 0x1002⟩ := by
  decide

/-- UNI-1: the fault register of an unimplemented word. -/
theorem test_unimplemented : (after 0x00E1 ready).run = .faulted .unimplementedOpcode ∧ (after 0x00E1 ready).fault = ⟨1, 0x00E1⟩ := by
  decide

/-- RST-2 and TMR-8: the halting step. -/
theorem test_halt : (after 0x0000 (ready.setDt 5)).run = .halted ∧ (after 0x0000 (ready.setDt 5)).pc = 0x202 ∧
    (after 0x0000 (ready.setDt 5)).dt = 5 := by decide

/-! ## Control flow -/

/-- JP-1. -/
theorem test_jp : (after 0x1204 ready).pc = 0x204 := by decide

/-- JPV-1 and JPV-2. -/
theorem test_jpV0 : (after 0xB300 (ready.setReg 0 4)).pc = 0x304 ∧ (after 0xBFFF (ready.setReg 0 0xFF)).pc = 0x10FE := by decide

/-- CALL-2: the 16th nested call. -/
theorem test_call : (after 0x2300 (ready.setSp 15)).stack[15] = 0x202 ∧ (after 0x2300 (ready.setSp 15)).sp = 16 ∧
    (after 0x2300 (ready.setSp 15)).pc = 0x300 := by decide

/-- CALL-3. -/
theorem test_call_overflow : (after 0x2300 (ready.setSp 16)).fault = ⟨2, 0x202⟩ := by decide

/-- RET-1. -/
theorem test_ret :
    (after 0x00EE (((readyAt 0x212).setSp 1).setStack (ready.stack.set 0 0x206))).pc = 0x206 ∧
    (after 0x00EE (((readyAt 0x212).setSp 1).setStack (ready.stack.set 0 0x206))).sp = 0 := by decide

/-- RET-2. -/
theorem test_ret_underflow : (after 0x00EE ready).fault = ⟨3, 0x202⟩ := by decide

/-- SE-1 and SE-2. -/
theorem test_seImm : (after 0x3000 ready).pc = 0x204 ∧ (after 0x3000 (ready.setReg 0 4)).pc = 0x202 := by decide

/-- SNE-1 and SNE-2. -/
theorem test_sneImm : (after 0x4311 (ready.setReg 3 0x10)).pc = 0x204 ∧ (after 0x4311 (ready.setReg 3 0x11)).pc = 0x202 := by
  decide

/-- SER-2 and SER-3. -/
theorem test_seReg : (after 0x5120 ((ready.setReg 1 1).setReg 2 2)).pc = 0x202 ∧ (after 0x5440 ready).pc = 0x204 := by decide

/-- SNER-1 and SNER-2. -/
theorem test_sneReg : (after 0x9120 ((ready.setReg 1 1).setReg 2 2)).pc = 0x204 ∧ (after 0x9440 ready).pc = 0x202 := by decide

/-! ## Loads and the ALU -/

/-- LDI-2. -/
theorem test_ldImm : (after 0x6FAA ready).reg 15 = 0xAA := by decide

/-- LDR-1. -/
theorem test_ldReg : (after 0x8EF0 (ready.setReg 15 1)).reg 14 = 1 ∧ (after 0x8EF0 (ready.setReg 15 1)).reg 15 = 1 := by decide

/-- ADI-2. -/
theorem test_addImm : (after 0x7001 ((ready.setReg 0 0xFF).setReg 15 7)).reg 0 = 0 ∧
    (after 0x7001 ((ready.setReg 0 0xFF).setReg 15 7)).reg 15 = 7 := by decide

/-- OR-1, AND-1 and XOR-1. -/
theorem test_bitwise :
    (after 0x8121 ((ready.setReg 1 0xF0).setReg 2 0x0F)).reg 1 = 0xFF ∧
    (after 0x8122 ((ready.setReg 1 0xF0).setReg 2 0x3C)).reg 1 = 0x30 ∧
    (after 0x8123 ((ready.setReg 1 0xF0).setReg 2 0x3C)).reg 1 = 0xCC := by decide

/-- ADD-2 and ADD-3. -/
theorem test_addReg :
    (after 0x8014 ((ready.setReg 0 0xFF).setReg 1 1)).reg 0 = 0 ∧ (after 0x8014 ((ready.setReg 0 0xFF).setReg 1 1)).reg 15 = 1 ∧
    (after 0x8014 (ready.setReg 0 0xFF)).reg 15 = 0 := by decide

/-- ADD-7 and ADD-8: the flag register as destination and as source. -/
theorem test_addReg_flag :
    (after 0x8F14 ((ready.setReg 15 0xF0).setReg 1 0x20)).reg 15 = 1 ∧
    (after 0x80F4 ((ready.setReg 0 0x10).setReg 15 1)).reg 0 = 0x11 ∧
    (after 0x80F4 ((ready.setReg 0 0x10).setReg 15 1)).reg 15 = 0 := by decide

/-- SUB-1 and SUB-2. -/
theorem test_subReg :
    (after 0x8015 ((ready.setReg 0 0x0F).setReg 1 8)).reg 0 = 7 ∧ (after 0x8015 ((ready.setReg 0 0x0F).setReg 1 8)).reg 15 = 1 ∧
    (after 0x8015 ((ready.setReg 0 8).setReg 1 0x0F)).reg 0 = 0xF9 ∧
    (after 0x8015 ((ready.setReg 0 8).setReg 1 0x0F)).reg 15 = 0 := by decide

/-- SUB-3 and SUB-6. -/
theorem test_subReg_equal_flag :
    (after 0x8015 ((ready.setReg 0 5).setReg 1 5)).reg 15 = 1 ∧ (after 0x8F15 ((ready.setReg 15 9).setReg 1 2)).reg 15 = 1 := by
  decide

/-- SUBN-2 and SUBN-3. -/
theorem test_subn :
    (after 0x8017 ((ready.setReg 0 8).setReg 1 0x0F)).reg 0 = 0xF9 ∧
    (after 0x8017 ((ready.setReg 0 8).setReg 1 0x0F)).reg 15 = 1 ∧
    (after 0x8017 ((ready.setReg 0 5).setReg 1 5)).reg 15 = 0 := by decide

/-- SUBN-5: the alternative SUBN_ORDER. -/
theorem test_subn_reversed :
    (after 0x8017 (withSettings ((ready.setReg 0 0x0F).setReg 1 8) otherAlu)).reg 0 = 0xF9 ∧
    (after 0x8017 (withSettings ((ready.setReg 0 0x0F).setReg 1 8) otherAlu)).reg 15 = 1 := by decide

/-- SHR-1 and SHR-6. -/
theorem test_shr :
    (after 0x8236 ((ready.setReg 2 5).setReg 3 0xAA)).reg 2 = 2 ∧ (after 0x8236 ((ready.setReg 2 5).setReg 3 0xAA)).reg 15 = 1 ∧
    (after 0x8F36 (ready.setReg 15 2)).reg 15 = 0 := by decide

/-- SHR-7: the alternative SHIFT_SOURCE. -/
theorem test_shr_fromY :
    (after 0x8236 (withSettings ((ready.setReg 2 5).setReg 3 0xAA) otherAlu)).reg 2 = 0x55 ∧
    (after 0x8236 (withSettings ((ready.setReg 2 5).setReg 3 0xAA) otherAlu)).reg 15 = 0 := by decide

/-- SHL-1 and SHL-5. -/
theorem test_shl :
    (after 0x823E ((ready.setReg 2 0x81).setReg 3 0xAA)).reg 2 = 2 ∧
    (after 0x823E ((ready.setReg 2 0x81).setReg 3 0xAA)).reg 15 = 1 ∧ (after 0x8F3E (ready.setReg 15 0x80)).reg 15 = 1 := by
  decide

/-- SHL-6: the alternative SHIFT_SOURCE. -/
theorem test_shl_fromY :
    (after 0x823E (withSettings ((ready.setReg 2 5).setReg 3 0xAA) otherAlu)).reg 2 = 0x54 ∧
    (after 0x823E (withSettings ((ready.setReg 2 5).setReg 3 0xAA) otherAlu)).reg 15 = 1 := by decide

/-! ## Keypad and random -/

/-- KEY-2 and KEY-4. -/
theorem test_skp : (after 0xE49E ((withKeys 0x0400).setReg 4 0x1A)).pc = 0x204 ∧
    (after 0xE49E ((withKeys 0xFBFF).setReg 4 0x0A)).pc = 0x202 := by decide

/-- KEY-5 and KEY-6. -/
theorem test_sknp : (after 0xE4A1 ((withKeys 0).setReg 4 0x0A)).pc = 0x204 ∧
    (after 0xE4A1 ((withKeys 0x0400).setReg 4 0xFA)).pc = 0x202 := by decide

/-- RND-1: the draw the host has fixed is used up. -/
theorem test_rnd : (after 0xC30F { ready with rndIn := [0xB7] }).reg 3 = 0x07 ∧
    (after 0xC30F { ready with rndIn := [0xB7] }).rndIn = [] := by decide

/-! ## Display -/

/-- CLS-1. -/
theorem test_cls :
    (after 0x00E0 ((ready.showDisplay (Display.blank.flip 31 63)).setReg 15 1)).disp.pixel 31 63 = false ∧
    (after 0x00E0 ((ready.showDisplay (Display.blank.flip 31 63)).setReg 15 1)).reg 15 = 1 ∧
    (after 0x00E0 ready).displayUpdated = true := by decide

/-- A sprite at 0x300 to be drawn at column `x[0]` and row `x[1]`. -/
def sprite (bytes : List Byte) (col row : Byte) : State :=
  (((placeBytes ready 0x300 bytes).setIndex 0x300).setReg 0 col).setReg 1 row

/-- DRW-3: the columns wrap. -/
theorem test_drw_wrap :
    (List.range 64).filter (fun c => (after 0xD011 (sprite [0xFF] 63 0)).disp.pixel 0 (Fin.ofNat 64 c)) = [0, 1, 2, 3, 4, 5, 6, 63] := by
  decide

/-- DRW-5 and DRW-6: the collision. -/
theorem test_drw_collision :
    (after 0xD011 ((sprite [0xC0] 0 0).showDisplay (Display.blank.flip 0 0))).reg 15 = 1 ∧
    (after 0xD011 ((sprite [0xC0] 0 0).showDisplay (Display.blank.flip 0 0))).disp.pixel 0 0 = false ∧
    (after 0xD011 (((sprite [0x40] 0 0).showDisplay (Display.blank.flip 0 0)).setReg 15 1)).reg 15 = 0 := by decide

/-! ## Index register and memory -/

/-- LDX-1. -/
theorem test_ldI : (after 0xA20E ready).index = 0x20E := by decide

/-- ADX-2 and ADX-3. -/
theorem test_addI : (after 0xF21E ((ready.setIndex 0xFFF).setReg 2 1)).index = 0x1000 ∧
    (after 0xF21E ((ready.setIndex 0xFFFF).setReg 2 1)).index = 0 := by decide

/-- FNT-1 and FNT-2. -/
theorem test_ldF : (after 0xF529 (ready.setReg 5 0x0A)).index = 0x0A ∧ (after 0xF529 (ready.setReg 5 0xFF)).index = 0xFF := by
  decide

/-- BCD-1 and BCD-7. -/
theorem test_ldB :
    ([0x300, 0x301, 0x302].map (after 0xF033 ((ready.setIndex 0x300).setReg 0 0xFE)).mem.read) = [2, 5, 4] ∧
    ([0xFFD, 0xFFE, 0xFFF].map (after 0xF033 ((ready.setIndex 0xFFD).setReg 0 0x7B)).mem.read) = [1, 2, 3] := by decide

/-- BCD-8. -/
theorem test_ldB_outside : (after 0xF033 ((ready.setIndex 0xFFE).setReg 0 0x7B)).fault = ⟨4, 0x1000⟩ := by decide

/-- Registers 0 to 3 hold 11 22 33 44. -/
def fourRegs : State := (((ready.setReg 0 0x11).setReg 1 0x22).setReg 2 0x33).setReg 3 0x44

/-- MEM-1. -/
theorem test_dumpRegs :
    ([0x400, 0x401, 0x402, 0x403].map (after 0xF255 (fourRegs.setIndex 0x400)).mem.read) = [0x11, 0x22, 0x33, 0] ∧
    (after 0xF255 (fourRegs.setIndex 0x400)).index = 0x400 := by decide

/-- MEM-4. -/
theorem test_dumpRegs_outside : (after 0xFF55 (ready.setIndex 0xFF1)).fault = ⟨4, 0x1000⟩ := by decide

/-- MEM-5. -/
theorem test_loadRegs :
    ([0, 1, 2, 3].map (after 0xF265 ((placeBytes (ready.setReg 3 0x99) 0x300 [2, 5, 4]).setIndex 0x300)).reg) =
      [2, 5, 4, 0x99] := by decide

/-- MEM-7. -/
theorem test_loadRegs_outside : (after 0xF165 (ready.setIndex 0xFFF)).fault = ⟨4, 0x1000⟩ := by decide

/-! ## Timers and key wait -/

/-- TMR-7. -/
theorem test_ldVxDt : (after 0xF107 (ready.setDt 2)).reg 1 = 2 ∧ (after 0xF107 (ready.setDt 2)).dt = 1 := by decide

/-- TMR-4 and TMR-5. -/
theorem test_ldDtVx : (after 0xF015 (ready.setReg 0 3)).dt = 2 ∧ (after 0xF015 ready).dt = 0 := by decide

/-- TMR-6 and R192. -/
theorem test_ldStVx : soundOn (after 0xF018 (ready.setReg 0 1)) = false ∧ soundOn (after 0xF018 (ready.setReg 0 2)) = true := by
  decide

/-- TMR-3. -/
theorem test_tick : (after 0x6000 ((ready.setDt 0xFF).setSt 1)).dt = 0xFE ∧ (after 0x6000 ((ready.setDt 0xFF).setSt 1)).st = 0 := by
  decide

/-- KW-1 and KW-4. -/
theorem test_ldVxK : (after 0xF30A (withKeys 0x0084)).reg 3 = 2 ∧ (after 0xF30A (withKeys 0x0084)).run = .running ∧
    (after 0xFF0A (withKeys 0x8000)).reg 15 = 15 := by decide

/-- KW-2 and KW-3: the entering step does not tick. -/
theorem test_ldVxK_suspends : (after 0xF30A ((withKeys 0).setDt 9)).run = .waitKey 3 ∧
    (after 0xF30A (withSettings ((withKeys 0).setDt 9) otherKeywait)).dt = 9 := by decide

/-- KW-2 and KW-3: a poll with no key. -/
theorem test_poll_no_key : (stateOf ready (step (waiting [0]))).dt = 9 ∧
    (stateOf ready (step (withSettings (waiting [0]) otherKeywait))).dt = 8 := by decide

/-- KW-2: a poll that sees keys 2 and 7. -/
theorem test_poll_key : (stateOf ready (step (waiting [0x84]))).reg 3 = 2 ∧ (stateOf ready (step (waiting [0x84]))).run = .running ∧
    (stateOf ready (step (waiting [0x84]))).dt = 8 ∧ (stateOf ready (step (waiting [0x84]))).pc = 0x202 := by decide

/-! ## Reset and load -/

/-- LOAD-3. -/
theorem test_load : ((loadProgram [0x80, 0x14, 0, 0] State.reset).mem = [(0x200, 0x80), (0x201, 0x14)]) := by decide

/-- R200: asserting reset in a faulted machine. -/
theorem test_assertReset : (assertReset (after 0xFFFF ready)).run = .running ∧ (assertReset (after 0xFFFF ready)).pc = 0x200 := by
  decide

/-! ## Witnesses: states and operands that meet the hypotheses of each obligation -/

/-- A word placed at 0x200, and one at the last word of memory, are fetched. -/
theorem witness_fetches : Fetches (ready.withFetchWord 16 0x8014) 0x8014 ∧
    Fetches ((readyAt 0xFFE).withFetchWord 16 0x6A01) 0x6A01 :=
  ⟨⟨rfl, by decide, by decide⟩, ⟨rfl, by decide, by decide⟩⟩

theorem witness_EncodeOfDecodedWord : decodeWord 0xD012 = .ok (.drw 0 1 2) := by decide

theorem witness_DecoderFollowsOpcodeMap : (⟨0xF00F, 0x8004, "ADD_Vx__Vy"⟩ : OpcodeRow) ∈ opcodeMap := by decide

/-- Also with no sampling fixed beforehand. -/
theorem witness_StepRunsDecodedInstruction :
    Fetches (ready.withFetchWord 16 0x8014) 0x8014 ∧ decodeWord 0x8014 = .ok (.addReg 0 1) ∧
    (ready.withFetchWord 16 0x8014).keysIn = [0] ∧ Fetches (State.reset.withFetchWord 16 0x8014) 0x8014 :=
  ⟨⟨rfl, by decide, by decide⟩, by decide, by decide, rfl, by decide, by decide⟩

/-- A state off the reset run: a faulting step leaves free bytes in memory. -/
theorem witness_StepKeepsMemoryCanonical :
    MemoryCanonical (ready.withFetchWord 16 0xF055) ∧ (∃ t, step (ready.withFetchWord 16 0xF055) = .next t) ∧
    MemoryCanonical (ready.withFetchWord 16 0xFFFF) ∧ ∃ t, step (ready.withFetchWord 16 0xFFFF) = .next t :=
  ⟨show Memory.wf _ = true by decide, ⟨_, rfl⟩, show Memory.wf _ = true by decide, ⟨_, rfl⟩⟩

/-- The two greatest values pc reaches, JPV-2 and a call at the last word, start from states within the bound. -/
theorem witness_StepKeepsPcBounded :
    PcBounded ((ready.setReg 0 0xFF).withFetchWord 16 0xBFFF) ∧ PcBounded ((readyAt 0xFFE).withFetchWord 16 0x2300) ∧
    (∃ t, step ((ready.setReg 0 0xFF).withFetchWord 16 0xBFFF) = .next t ∧ t.pc = 0x10FE) ∧
    ∃ t, step ((readyAt 0xFFE).withFetchWord 16 0x2300) = .next t ∧ t.stack[0] = 0x1000 :=
  ⟨.inr ⟨by decide, by decide⟩, .inr ⟨by decide, by decide⟩, ⟨_, rfl, by decide⟩, ⟨_, rfl, by decide⟩⟩

theorem witness_StepKeepsFaultRegisterInAgreement :
    FaultMatchesRun ready ∧ FaultMatchesRun (after 0xFFFF ready) ∧ ∃ t, step ready = .next t :=
  ⟨⟨rfl, rfl⟩, show (after 0xFFFF ready).fault.code = errorCode .unimplementedOpcode by decide, ⟨_, rfl⟩⟩

theorem witness_StepKeepsTerminalStatesQuiet :
    PulseQuietAtEnd (after 0 ready) ∧ (after 0 ready).run = .halted ∧ (after 0 ready).displayUpdated = false ∧
    ∃ t, step (after 0 ready) = .next t :=
  ⟨fun _ => by decide, by decide, by decide, ⟨_, rfl⟩⟩

theorem witness_HaltedStepDoesNothing : (after 0 ready).run = .halted := by decide

theorem witness_FaultedStepDoesNothing : (after 0xFFFF ready).run = .faulted .unimplementedOpcode := by decide

theorem witness_HaltWordEndsTheRun : Fetches (ready.withFetchWord 16 0) 0 ∧ Fetches State.reset 0 :=
  ⟨⟨rfl, by decide, by decide⟩, ⟨rfl, by decide, by decide⟩⟩

theorem witness_UnimplementedWordRaises :
    Fetches (ready.withFetchWord 16 0xFFFF) 0xFFFF ∧ decodeWord 0xFFFF = .error (.unimplemented 0xFFFF) :=
  ⟨⟨rfl, by decide, by decide⟩, by decide⟩

/-- pc at 4095, at 4096 and above; 4094 is the last legal one. -/
theorem witness_FetchOutsideMemoryRaises :
    (readyAt 4095).run = .running ∧ 4094 < (readyAt 4095).pc.toNat ∧ 4094 < (readyAt 4096).pc.toNat ∧
    4094 < (readyAt 0x10FE).pc.toNat ∧ ¬ 4094 < (readyAt 4094).pc.toNat := by decide

/-- One instruction that completes, and two that do not. -/
theorem witness_TimersTickOncePerCompletedInstruction :
    Fetches (ready.withFetchWord 16 0x6000) 0x6000 ∧ decodeWord 0x6000 = .ok (.ldImm 0 0) ∧
    (∃ u, exec (.ldImm 0 0) (atExecute (ready.withFetchWord 16 0x6000)) = .next u ∧ u.run = .running) ∧
    (∃ u, exec .halt (atExecute (ready.withFetchWord 16 0)) = .next u ∧ u.run = .halted) ∧
    ∃ u, exec .ret (atExecute (ready.withFetchWord 16 0xEE)) = .next u ∧ u.run = .faulted .stackUnderflow :=
  ⟨⟨rfl, by decide, by decide⟩, by decide, ⟨_, rfl, rfl⟩, ⟨_, rfl, rfl⟩, ⟨_, rfl, rfl⟩⟩

/-- Polls with and without a key, under both values of the two settings. -/
theorem witness_PollOfTheKeyWait :
    (waiting [0]).run = .waitKey 3 ∧ (stateOf ready (step (waiting [0]))).key = 0 ∧
    (stateOf ready (step (withSettings (waiting [0]) otherKeywait))).key = 0 ∧
    (stateOf ready (step (waiting [0x8001]))).key ≠ 0 ∧ (waiting [0x8001]).settings.keywaitPick = .lowest ∧
    (stateOf ready (step (withSettings (waiting [0x8001]) otherKeywait))).key ≠ 0 ∧
    (withSettings (waiting [0x8001]) otherKeywait).run = .waitKey 3 := by decide

theorem witness_KeyWaitStoresKeyOrSuspends :
    ({ ready with key := 0x8000 } : State).key ≠ 0 ∧ ready.key = 0 ∧ ready.settings.keywaitPick = .lowest := by decide

/-- Each kind of writer: a completed instruction. -/
theorem witness_EachComponentHasItsOwnWriters :
    (∃ t, exec (.drw 0 1 1) ready = .next t ∧ ¬ IsFaulted t) ∧ (∃ t, exec (.dumpRegs 2) ready = .next t ∧ ¬ IsFaulted t) ∧
    (∃ t, exec (.call 0x300) ready = .next t ∧ ¬ IsFaulted t) ∧ (∃ t, exec (.ldDtVx 0) ready = .next t ∧ ¬ IsFaulted t) ∧
    (∃ t, exec (.loadRegs 2) ready = .next t ∧ ¬ IsFaulted t) ∧ (∃ t, exec (.rnd 3 0x0F) ready = .next t ∧ ¬ IsFaulted t) ∧
    ∃ t, exec (.seImm 0 0) ready = .next t ∧ ¬ IsFaulted t :=
  ⟨⟨_, rfl, fun ⟨_, h⟩ => by cases h⟩, ⟨_, rfl, fun ⟨_, h⟩ => by cases h⟩, ⟨_, rfl, fun ⟨_, h⟩ => by cases h⟩,
   ⟨_, rfl, fun ⟨_, h⟩ => by cases h⟩, ⟨_, rfl, fun ⟨_, h⟩ => by cases h⟩, ⟨_, rfl, fun ⟨_, h⟩ => by cases h⟩,
   ⟨_, rfl, fun ⟨_, h⟩ => by cases h⟩⟩

/-- Registers an instruction may and may not write, at the borders of each clause. -/
theorem witness_mayWriteReg : mayWriteReg (.loadRegs 2) 2 ∧ ¬ mayWriteReg (.loadRegs 2) 3 ∧ mayWriteReg (.addReg 0 1) 15 ∧
    ¬ mayWriteReg (.addReg 0 1) 1 ∧ mayWriteReg (.drw 0 1 1) 15 ∧ ¬ mayWriteReg (.drw 0 1 1) 0 ∧ ¬ mayWriteReg (.jp 0) 0 := by
  simp [mayWriteReg]

theorem witness_FlagChangesOnlyWhereListed :
    (∃ t, exec (.addReg 15 1) ready = .next t ∧ ¬ IsFaulted t) ∧ (∃ t, exec (.loadRegs 14) ready = .next t ∧ ¬ IsFaulted t) ∧
    (14 : RegIdx) ≠ 15 ∧ ∃ t, exec (.jp 0) ready = .next t ∧ ¬ IsFaulted t :=
  ⟨⟨_, rfl, fun ⟨_, h⟩ => by cases h⟩, ⟨_, rfl, fun ⟨_, h⟩ => by cases h⟩, by decide, ⟨_, rfl, fun ⟨_, h⟩ => by cases h⟩⟩

/-- An instruction that completes, and one that ends in a fatal error. -/
theorem witness_SoundTimerIsInvisible : (∃ t, exec (.ldVxDt 0) ready = .next t ∧ ¬ IsFaulted t) ∧
    ∃ t, exec .ret ready = .next t ∧ IsFaulted t :=
  ⟨⟨_, rfl, fun ⟨_, h⟩ => by cases h⟩, ⟨_, rfl, _, rfl⟩⟩

theorem witness_StepKeepsSettings : (∃ t, step (withSettings ready otherAlu) = .next t) ∧ otherAlu ≠ Settings.default :=
  ⟨⟨_, rfl⟩, by decide⟩

/-- A draw, a clear, an instruction that is neither, and a draw that faults. -/
theorem witness_DisplayUpdatedPulsesForDrawing :
    Fetches (ready.withFetchWord 16 0xD010) 0xD010 ∧ decodeWord 0xD010 = .ok (.drw 0 1 0) ∧
    (∃ t, step (ready.withFetchWord 16 0xD010) = .next t ∧ t.displayUpdated = true) ∧
    (∃ t, step (ready.withFetchWord 16 0xE0) = .next t ∧ t.displayUpdated = true) ∧
    (∃ t, step ((ready.showDisplay Display.blank).withFetchWord 16 0x6000) = .next t ∧ t.displayUpdated = false) ∧
    ∃ t, step ((ready.setIndex 0xFFF).withFetchWord 16 0xD012) = .next t ∧ t.run = .faulted .outOfBoundsAccess :=
  ⟨⟨rfl, by decide, by decide⟩, by decide, ⟨_, rfl, by decide⟩, ⟨_, rfl, by decide⟩, ⟨_, rfl, by decide⟩, ⟨_, rfl, by decide⟩⟩

/-- SUBN and the shifts under both settings, a destination other than the flag register among them. -/
theorem witness_configured_operands :
    (ready.settings.subnOrder = .asInput ∧ (0 : Byte) = ready.reg 0 ∧ (0 : Byte) = ready.reg 1) ∧
    ((withSettings (ready.setReg 1 8) otherAlu).settings.subnOrder = .reversed ∧
      (8 : Byte) = (withSettings (ready.setReg 1 8) otherAlu).reg 1 ∧
      (0 : Byte) = (withSettings (ready.setReg 1 8) otherAlu).reg 0) ∧
    (ready.settings.shiftSource = .fromX ∧ (0 : Byte) = ready.reg 2) ∧
    ((withSettings (ready.setReg 3 0xAA) otherAlu).settings.shiftSource = .fromY ∧
      (0xAA : Byte) = (withSettings (ready.setReg 3 0xAA) otherAlu).reg 3) ∧ (2 : RegIdx) ≠ 15 := by decide

/-- The stack with room for one more, full, with one entry, with 16, and empty. -/
theorem witness_stack :
    (ready.setSp 15).sp.val < 16 ∧ (ready.setSp 0).sp.val < 16 ∧ (ready.setSp 16).sp.val = 16 ∧
    (ready.setSp 1).sp.val = (0 : Fin 16).val + 1 ∧ (ready.setSp 16).sp.val = (15 : Fin 16).val + 1 ∧
    (ready.setSp 0).sp.val = 0 := by decide

/-- The state right after the call, and one at another pc, have the call's stack. -/
theorem witness_ReturnUndoesCall :
    (ready.setSp 15).sp.val < 16 ∧ (∃ t, exec (.call 0x300) (ready.setSp 15) = .next t ∧ t.sp = t.sp ∧ agree .stack t t ∧
      (t.setPc 0x400).sp = t.sp ∧ agree .stack t (t.setPc 0x400)) :=
  ⟨by decide, _, rfl, rfl, fun _ => rfl, rfl, fun _ => rfl⟩

theorem witness_RandomIsMasked : ({ ready with rndIn := [0xB7] } : State).rndIn = [0xB7] ∧ ready.rndIn = [] := by decide

/-- The sprite of 15 rows that ends at the last byte, the one row there, and no row beyond memory. -/
theorem witness_DrawXorsTheSprite :
    (ready.setIndex 0xFF1).index.toNat + (15 : Nibble).toNat ≤ 4096 ∧
    (ready.setIndex 0xFFF).index.toNat + (1 : Nibble).toNat ≤ 4096 ∧ (0 : Nibble) = 0 ∧
    ¬ (ready.setIndex 0x1000).index.toNat + (0 : Nibble).toNat ≤ 4095 := by decide

/-- A pixel the sprite covers, after the wrap of the columns, one it does not, and both with the pixel set before. -/
theorem witness_SpriteCovers :
    SpriteCovers (sprite [0xFF] 63 0) 63 0 1 0 6 ∧ ¬ SpriteCovers (sprite [0xFF] 63 0) 63 0 1 1 6 ∧
    ((sprite [0xFF] 63 0).showDisplay (Display.blank.flip 0 6)).disp.pixel 0 6 = true ∧
    SpriteCovers ((sprite [0xFF] 63 0).showDisplay (Display.blank.flip 0 6)) 63 0 1 0 6 :=
  ⟨⟨0, 7, by decide, by decide, by decide, by decide, by decide⟩,
   fun ⟨row, _, h, _, h2, _, _⟩ => by
     have : row = 0 := by simpa using h
     subst this; simp at h2,
   by decide, ⟨0, 7, by decide, by decide, by decide, by decide, by decide⟩⟩

/-- The state the first draw leaves is one in which the second is drawn (x and y are not the flag register). -/
theorem witness_DrawTwiceRestoresTheDisplay :
    ∃ t, exec (.drw 0 1 1) (sprite [0xFF] 63 0) = .next t ∧ agree .disp t t ∧ agree .mem (sprite [0xFF] 63 0) t ∧
      t.index = (sprite [0xFF] 63 0).index ∧ t.reg 0 = (sprite [0xFF] 63 0).reg 0 ∧ t.reg 1 = (sprite [0xFF] 63 0).reg 1 ∧
      ∀ r c, SpriteCovers (sprite [0xFF] 63 0) 63 0 1 r c → (sprite [0xFF] 63 0).disp.pixel r c = false :=
  ⟨_, rfl, fun _ _ => rfl, fun _ => rfl, rfl, by decide, by decide, fun r c _ => Display.pixel_blank r c⟩

/-- The last legal index of each block, and the first that is not. -/
theorem witness_blocks :
    (ready.setIndex 0xFFD).index.toNat + 2 ≤ 4095 ∧ 4095 < (ready.setIndex 0xFFE).index.toNat + 2 ∧
    (ready.setIndex 0xFF0).index.toNat + (15 : RegIdx).toNat ≤ 4095 ∧
    4095 < (ready.setIndex 0xFF1).index.toNat + (15 : RegIdx).toNat ∧
    (ready.setIndex 0xFFF).index.toNat + (0 : RegIdx).toNat ≤ 4095 ∧
    (1 : Nibble) ≠ 0 ∧ 4096 < (ready.setIndex 0x1000).index.toNat + (1 : Nibble).toNat ∧
    (0x1000 : Word) = (if 4095 < (ready.setIndex 0xFFE).index.toNat then (ready.setIndex 0xFFE).index else 0x1000) ∧
    (0x1000 : Word) = (if 4095 < (ready.setIndex 0x1000).index.toNat then (ready.setIndex 0x1000).index else 0x1000) ∧
    (0xFFFF : Word) = (if 4095 < (ready.setIndex 0xFFFF).index.toNat then (ready.setIndex 0xFFFF).index else 0x1000) := by
  decide

/-- Registers below, at and above X. -/
theorem witness_block_registers : (3 : RegIdx).toNat ≤ (3 : RegIdx).toNat ∧ (3 : RegIdx).toNat < (15 : RegIdx).toNat := by decide

/-- The state right after the dump has its memory and the same I. -/
theorem witness_RegisterLoadUndoesDump :
    (fourRegs.setIndex 0x400).index.toNat + (2 : RegIdx).toNat ≤ 4095 ∧
    ∃ t, exec (.dumpRegs 2) (fourRegs.setIndex 0x400) = .next t ∧ agree .mem t t ∧ t.index = (fourRegs.setIndex 0x400).index :=
  ⟨by decide, _, rfl, fun _ => rfl, rfl⟩

theorem witness_TimerAccessCopiesThenTicks :
    (Fetches (ready.withFetchWord 16 0xF107) 0xF107 ∧ decodeWord 0xF107 = .ok (.ldVxDt 1)) ∧
    (Fetches (ready.withFetchWord 16 0xF015) 0xF015 ∧ decodeWord 0xF015 = .ok (.ldDtVx 0)) ∧
    (Fetches (ready.withFetchWord 16 0xF018) 0xF018 ∧ decodeWord 0xF018 = .ok (.ldStVx 0)) :=
  ⟨⟨⟨rfl, by decide, by decide⟩, by decide⟩, ⟨⟨rfl, by decide, by decide⟩, by decide⟩, ⟨⟨rfl, by decide, by decide⟩, by decide⟩⟩

/-- Images of 3584 and of 3585 bytes. -/
theorem witness_image_lengths : (List.replicate 3584 (0xFF : Byte)).length ≤ 3584 ∧ 3584 < (List.replicate 3585 (0xFF : Byte)).length := by
  rw [List.length_replicate, List.length_replicate]; decide

end Sys2Proof.Tests
end

section
/-!
PROOFS. Control flow: the jump (spec/41_control_flow.md R102).
-/

namespace Sys2Proof.Machine

/-- Extending a 12-bit address to 16 bits keeps its value (R72). -/
@[simp] theorem toNat_zextAddr (nnn : Addr12) : (zextAddr nnn).toNat = nnn.toNat :=
  BitVec.toNat_setWidth_of_le (by decide)

/-- Setting pc touches no other component. -/
theorem frameExcept_setPc (s : State) (v : Word) : FrameExcept [.pc] s (s.setPc v) := by
  intro c hc
  cases c with
  | pc => simp at hc
  | _ => simp [agree]

theorem exec_jp (s : State) (nnn : Addr12) : exec (.jp nnn) s = .next (s.setPc (zextAddr nnn)) := rfl

/-- Settles O37: the jump is one update of pc, to the extended target (R102). -/
theorem jumpSetsPc : Obligations.JumpSetsPc := fun s nnn =>
  ⟨s.setPc (zextAddr nnn), exec_jp s nnn, by rw [State.setPc_pc, toNat_zextAddr], frameExcept_setPc s _⟩

end Sys2Proof.Machine
end

section
/-!
PROOFS. The register loads, the immediate addition, the bitwise operations and the addition of two registers
(spec/42_alu.md R120 to R126).
-/

namespace Sys2Proof.Machine

/-! ## Updates of the registers -/

/-- Replacing the register file touches no other component. -/
theorem frameExcept_withRegs (s : State) (v : Vector Byte 16) : FrameExcept [.regs] s { s with x := v } := by
  intro c hc
  cases c with
  | regs => simp at hc
  | _ => simp [agree]

theorem frameExcept_setReg (s : State) (x : RegIdx) (v : Byte) : FrameExcept [.regs] s (s.setReg x v) :=
  frameExcept_withRegs s _

theorem frameExcept_writeResultThenFlag (s : State) (x : RegIdx) (result flag : Byte) :
    FrameExcept [.regs] s (writeResultThenFlag s x result flag) :=
  frameExcept_withRegs s _

theorem reg_setReg_self (s : State) (x : RegIdx) (v : Byte) : (s.setReg x v).reg x = v := by
  rw [State.reg_setReg, if_pos rfl]

theorem otherRegsKept_setReg (s : State) (x : RegIdx) (v : Byte) : OtherRegsKept x s (s.setReg x v) := fun r hr => by
  rw [State.reg_setReg, if_neg hr.symm]

/-- The flag is written last, so `x[15]` holds it whatever X is (R132). -/
theorem reg_writeResultThenFlag_flag (s : State) (x : RegIdx) (result flag : Byte) :
    (writeResultThenFlag s x result flag).reg 15 = flag := by
  rw [reg_writeResultThenFlag, if_pos rfl]

theorem reg_writeResultThenFlag_result (s : State) {x : RegIdx} (result flag : Byte) (hx : x ≠ 15) :
    (writeResultThenFlag s x result flag).reg x = result := by
  rw [reg_writeResultThenFlag, if_neg hx, if_pos rfl]

theorem otherRegsKeptButFlag_writeResultThenFlag (s : State) (x : RegIdx) (result flag : Byte) :
    OtherRegsKeptButFlag x s (writeResultThenFlag s x result flag) := fun r hx hf => by
  rw [reg_writeResultThenFlag, if_neg hf, if_neg hx]

/-! ## Flag values -/

theorem toNat_flagOf (c : Bool) : (flagOf c).toNat = if c then 1 else 0 := by
  cases c <;> rfl

theorem toNat_carryFlag (a b : Byte) : (carryFlag a b).toNat = if 256 ≤ a.toNat + b.toNat then 1 else 0 := by
  simp only [carryFlag, toNat_flagOf, decide_eq_true_eq]

/-! ## What each instruction answers -/

theorem exec_ldImm (s : State) (x : RegIdx) (nn : Byte) : exec (.ldImm x nn) s = .next (s.setReg x nn) := rfl

theorem exec_ldReg (s : State) (x y : RegIdx) : exec (.ldReg x y) s = .next (s.setReg x (s.reg y)) := rfl

theorem exec_addImm (s : State) (x : RegIdx) (nn : Byte) : exec (.addImm x nn) s = .next (s.setReg x (s.reg x + nn)) := rfl

theorem exec_orReg (s : State) (x y : RegIdx) : exec (.orReg x y) s = .next (s.setReg x (s.reg x ||| s.reg y)) := rfl

theorem exec_andReg (s : State) (x y : RegIdx) : exec (.andReg x y) s = .next (s.setReg x (s.reg x &&& s.reg y)) := rfl

theorem exec_xorReg (s : State) (x y : RegIdx) : exec (.xorReg x y) s = .next (s.setReg x (s.reg x ^^^ s.reg y)) := rfl

theorem exec_addReg (s : State) (x y : RegIdx) :
    exec (.addReg x y) s = .next (writeResultThenFlag s x (s.reg x + s.reg y) (carryFlag (s.reg x) (s.reg y))) := rfl

/-! ## The obligations -/

/-- Settles O28: each load is one write of its destination register (R120, R121). -/
theorem loadsOverwriteTheDestination : Obligations.LoadsOverwriteTheDestination := fun s x y nn =>
  ⟨⟨_, exec_ldImm s x nn, reg_setReg_self s x nn, otherRegsKept_setReg s x nn, frameExcept_setReg s x nn⟩,
    ⟨_, exec_ldReg s x y, reg_setReg_self s x _, otherRegsKept_setReg s x _, frameExcept_setReg s x _⟩⟩

/-- Settles O29: the byte sum is already the sum modulo 256, and it is the only write (R122). -/
theorem addImmediateWrapsWithoutFlag : Obligations.AddImmediateWrapsWithoutFlag := fun s x nn =>
  ⟨_, exec_addImm s x nn, by rw [reg_setReg_self, BitVec.toNat_add], otherRegsKept_setReg s x _, frameExcept_setReg s x _⟩

/-- Settles O30: each operation is one write of its destination register, and the operations of bytes act bit by bit (R123,
R124, R125). -/
theorem bitwiseOperationsWithoutFlag : Obligations.BitwiseOperationsWithoutFlag := fun s x y =>
  ⟨⟨_, exec_orReg s x y, otherRegsKept_setReg s x _, frameExcept_setReg s x _,
      fun k => by rw [reg_setReg_self, BitVec.getLsbD_or]⟩,
    ⟨_, exec_andReg s x y, otherRegsKept_setReg s x _, frameExcept_setReg s x _,
      fun k => by rw [reg_setReg_self, BitVec.getLsbD_and]⟩,
    ⟨_, exec_xorReg s x y, otherRegsKept_setReg s x _, frameExcept_setReg s x _,
      fun k => by rw [reg_setReg_self, BitVec.getLsbD_xor]⟩⟩

/-- Settles O31: the carry is written after the sum, so it is what `x[15]` holds, with X = 15 too (R126, R132). -/
theorem addSetsCarryLast : Obligations.AddSetsCarryLast := fun s x y =>
  ⟨_, exec_addReg s x y, by rw [reg_writeResultThenFlag_flag, toNat_carryFlag],
    fun hx => by rw [reg_writeResultThenFlag_result s _ _ hx, BitVec.toNat_add],
    otherRegsKeptButFlag_writeResultThenFlag s x _ _, frameExcept_writeResultThenFlag s x _ _⟩

end Sys2Proof.Machine
end

section
/-!
PROOFS. The key skips (spec/43_keypad_random.md R140, R141, R143).
-/

namespace Sys2Proof.Machine

theorem agree_refl (c : Component) (s : State) : agree c s s := by
  cases c <;> simp [agree]

/-- A skip that is taken is one update of pc; one that is not leaves the state itself (R108). -/
theorem frameExcept_skipIf (s : State) (c : Bool) : FrameExcept [.pc] s (s.skipIf c) := by
  cases c with
  | true => exact frameExcept_setPc s (s.pc + 2)
  | false => exact fun comp _ => agree_refl comp s

/-- A skip on the negated condition is the skip with its two outcomes exchanged. -/
theorem pc_skipIf_not (s : State) (c : Bool) : (s.skipIf (!c)).pc = if c then s.pc else s.pc + 2 := by
  cases c <;> rfl

theorem exec_skp (s : State) (x : RegIdx) :
    exec (.skp x) s = .next (s.skipIf (s.key.getLsbD ((s.reg x).toNat % 16))) := rfl

theorem exec_sknp (s : State) (x : RegIdx) :
    exec (.sknp x) s = .next (s.skipIf (!s.key.getLsbD ((s.reg x).toNat % 16))) := rfl

/-- Settles O44: each key skip is one conditional skip, on the latched key numbered by the low four bits of `x[X]` and on its
negation (R140, R141, R143). -/
theorem keySkipsReadTheLatch : Obligations.KeySkipsReadTheLatch := fun s x =>
  ⟨⟨_, exec_skp s x, frameExcept_skipIf s _, State.skipIf_pc s _⟩,
    ⟨_, exec_sknp s x, frameExcept_skipIf s _, pc_skipIf_not s _⟩⟩

end Sys2Proof.Machine
end

section
/-!
PROOFS. The index register: the font address (spec/45_index_memory.md R162).
-/

namespace Sys2Proof.Machine

/-- Extending a byte to 16 bits keeps its value (R7). -/
@[simp] theorem toNat_zextByte (v : Byte) : (zextByte v).toNat = v.toNat :=
  BitVec.toNat_setWidth_of_le (by decide)

/-- Setting I touches no other component. -/
theorem frameExcept_setIndex (s : State) (v : Word) : FrameExcept [.index] s (s.setIndex v) := by
  intro c hc
  cases c with
  | index => simp at hc
  | _ => simp [agree]

theorem exec_ldF (s : State) (x : RegIdx) : exec (.ldF x) s = .next (s.setIndex (zextByte (s.reg x))) := rfl

/-- Settles O50: the instruction is one update of I, with the zero-extended register value, which is the same number
(R162). -/
theorem fontAddressIsTheRegisterValue : Obligations.FontAddressIsTheRegisterValue := fun s x =>
  ⟨_, exec_ldF s x, by rw [State.setIndex_index, toNat_zextByte], frameExcept_setIndex s _⟩

end Sys2Proof.Machine
end

section
/-!
PROOFS. The timer access instructions, at execute and at the end of the step (spec/46_timers_keywait.md R170 to R172), and the
step that runs a completing instruction (spec/40_controller.md R90).
-/

namespace Sys2Proof.Machine

/-! ## The step that completes an instruction -/

theorem fetchWord_beginStep_of_fetches {s : State} {w : Word} (h : Fetches s w) : fetchWord (beginStep s) = .ok w := by
  obtain ⟨-, hpc, rfl⟩ := h
  rw [fetchWord_eq, beginStep_pc, beginStep_mem, if_pos hpc]
  rfl

/-- The step is the decoded instruction executed, and the end of the step after it (R90). -/
theorem step_of_fetches {s : State} {w : Word} {i : Instr} (hf : Fetches s w) (hd : decodeWord w = .ok i) :
    step s = finishStep (exec i (atExecute s)) := by
  have hw := fetchWord_beginStep_of_fetches hf
  obtain ⟨hrun, -, -⟩ := hf
  simp only [step, controllerStep, hrun, fetchAndExecute, hw, hd, beginStep_pc, atExecute]

/-- An instruction that leaves the controller Running completes, and the timers tick once after it (R90, R190). -/
theorem step_of_completes {s t : State} {w : Word} {i : Instr} (hf : Fetches s w) (hd : decodeWord w = .ok i)
    (he : exec i (atExecute s) = .next t) (ht : t.run = s.run) : step s = .next (timerTick t) := by
  rw [step_of_fetches hf hd, he, finishStep_next, if_pos (ht.trans hf.1)]

/-! ## What execution reads of the state before the step -/

@[simp] theorem atExecute_dt (s : State) : (atExecute s).dt = s.dt := by simp [atExecute]
@[simp] theorem atExecute_run (s : State) : (atExecute s).run = s.run := by simp [atExecute]
@[simp] theorem reg_atExecute (s : State) (r : RegIdx) : (atExecute s).reg r = s.reg r := by simp [atExecute]

/-! ## Updates of the timers -/

theorem frameExcept_setDt (s : State) (v : Byte) : FrameExcept [.dt] s (s.setDt v) := by
  intro c hc
  cases c with
  | dt => simp at hc
  | _ => simp [agree]

theorem frameExcept_setSt (s : State) (v : Byte) : FrameExcept [.st] s (s.setSt v) := by
  intro c hc
  cases c with
  | st => simp at hc
  | _ => simp [agree]

/-- The sound is on exactly while ST is above zero (R192). -/
theorem soundOn_eq_decide_pos (s : State) : soundOn s = decide (0 < s.st.toNat) := by
  rw [Bool.eq_iff_iff, decide_eq_true_eq, Nat.pos_iff_ne_zero, soundOn, bne_iff_ne]
  exact not_congr BitVec.toNat_inj.symm

/-- After a tick the sound is on exactly if ST was above one (R190, R192). -/
theorem soundOn_timerTick (s : State) : soundOn (timerTick s) = decide (1 < s.st.toNat) := by
  rw [soundOn_eq_decide_pos, timerTick_st, toNat_tickTimer, decide_eq_decide]
  omega

/-! ## What each instruction answers -/

theorem exec_ldVxDt (s : State) (x : RegIdx) : exec (.ldVxDt x) s = .next (s.setReg x s.dt) := rfl

theorem exec_ldDtVx (s : State) (x : RegIdx) : exec (.ldDtVx x) s = .next (s.setDt (s.reg x)) := rfl

theorem exec_ldStVx (s : State) (x : RegIdx) : exec (.ldStVx x) s = .next (s.setSt (s.reg x)) := rfl

/-! ## What each instruction's step leaves -/

/-- The register gets DT before the tick, and the tick takes one off DT (R170). -/
theorem step_ldVxDt {s : State} {w : Word} {x : RegIdx} (hf : Fetches s w) (hd : decodeWord w = .ok (.ldVxDt x)) :
    ∃ t, step s = .next t ∧ t.reg x = s.dt ∧ t.dt.toNat = s.dt.toNat - 1 :=
  ⟨_, step_of_completes hf hd (exec_ldVxDt _ x) (atExecute_run s),
    by rw [State.reg_timerTick, reg_setReg_self, atExecute_dt],
    by rw [timerTick_dt, toNat_tickTimer, State.setReg_dt, atExecute_dt]⟩

/-- The tick takes one off the DT just written (R171). -/
theorem step_ldDtVx {s : State} {w : Word} {x : RegIdx} (hf : Fetches s w) (hd : decodeWord w = .ok (.ldDtVx x)) :
    ∃ t, step s = .next t ∧ t.dt.toNat = (s.reg x).toNat - 1 :=
  ⟨_, step_of_completes hf hd (exec_ldDtVx _ x) (atExecute_run s),
    by rw [timerTick_dt, toNat_tickTimer, State.setDt_dt, reg_atExecute]⟩

/-- The tick takes one off the ST just written, so the sound is on only if more than one was written (R172, R192). -/
theorem step_ldStVx {s : State} {w : Word} {x : RegIdx} (hf : Fetches s w) (hd : decodeWord w = .ok (.ldStVx x)) :
    ∃ t, step s = .next t ∧ t.st.toNat = (s.reg x).toNat - 1 ∧ soundOn t = decide (1 < (s.reg x).toNat) :=
  ⟨_, step_of_completes hf hd (exec_ldStVx _ x) (atExecute_run s),
    by rw [timerTick_st, toNat_tickTimer, State.setSt_st, reg_atExecute],
    by rw [soundOn_timerTick, State.setSt_st, reg_atExecute]⟩

/-! ## The obligation -/

/-- Settles O56: each instruction is one copy at execute and completes, so the step's tick comes after the copy and counts the
timers it left down by one (R170, R171, R172, R190). -/
theorem timerAccessCopiesThenTicks : Obligations.TimerAccessCopiesThenTicks := fun s x =>
  ⟨⟨_, exec_ldVxDt s x, reg_setReg_self s x _, otherRegsKept_setReg s x _, frameExcept_setReg s x _⟩,
    ⟨_, exec_ldDtVx s x, State.setDt_dt s _, frameExcept_setDt s _⟩,
    ⟨_, exec_ldStVx s x, State.setSt_st s _, frameExcept_setSt s _⟩,
    fun _ hf hd => step_ldVxDt hf hd,
    fun _ hf hd => step_ldDtVx hf hd,
    fun _ hf hd => step_ldStVx hf hd⟩

end Sys2Proof.Machine
end

section
/-!
PROOFS. The encoding: decoder and encoder agree, the decoder follows the opcode map, and the unimplemented words
(spec/30_encoding.md R71 to R83).
-/

namespace Sys2Proof

/-! ## The encoder's words, decoded -/

/-- Settles O1: the word's fields are the operands, format by format, so its class, and in classes 5, 8, 9, E and F its fixed
field, select the instruction's own row (R71, R75, R83). -/
theorem decodeOfEncodedInstruction : Obligations.DecodeOfEncodedInstruction := fun i => by
  cases i with
  | halt | cls | ret => rfl
  | jp | call | ldI | jpV0 => simp [encode, decodeWord]
  | seImm | sneImm | ldImm | addImm | rnd => simp [encode, decodeWord]
  | skp | sknp => simp [encode, decodeWord, decodeClassE]
  | ldVxDt | ldVxK | ldDtVx | ldStVx | addI | ldF | ldB | dumpRegs | loadRegs => simp [encode, decodeWord, decodeClassF]
  | seReg | sneReg | drw => simp [encode, decodeWord]
  | ldReg | orReg | andReg | xorReg | addReg | subReg | shr | subn | shl => simp [encode, decodeWord, decodeClass8]

/-! ## The fields as numbers (R71) -/

theorem toNat_fieldClass (w : Word) : (fieldClass w).toNat = w.toNat / 4096 := by
  have := w.isLt
  simp [fieldClass, Nat.shiftRight_eq_div_pow]
  omega

theorem toNat_fieldN (w : Word) : (fieldN w).toNat = w.toNat % 16 := by
  simp [fieldN]

theorem toNat_fieldNN (w : Word) : (fieldNN w).toNat = w.toNat % 256 := by
  simp [fieldNN]

/-! ## A word from its fields -/

theorem wordA_of_class {w : Word} {c : Nat} (h : (fieldClass w).toNat = c) : wordA (BitVec.ofNat 4 c) (fieldNNN w) = w := by
  rw [← h, BitVec.ofNat_toNat, BitVec.setWidth_eq, wordA_fields]

theorem wordXI_of_class {w : Word} {c : Nat} (h : (fieldClass w).toNat = c) :
    wordXI (BitVec.ofNat 4 c) (fieldX w) (fieldNN w) = w := by
  rw [← h, BitVec.ofNat_toNat, BitVec.setWidth_eq, wordXI_fields]

theorem wordXI_of_class_NN {w : Word} {c n : Nat} (h : (fieldClass w).toNat = c) (hn : (fieldNN w).toNat = n) :
    wordXI (BitVec.ofNat 4 c) (fieldX w) (BitVec.ofNat 8 n) = w := by
  rw [← hn, BitVec.ofNat_toNat, BitVec.setWidth_eq, wordXI_of_class h]

theorem wordXYN_of_class {w : Word} {c : Nat} (h : (fieldClass w).toNat = c) :
    wordXYN (BitVec.ofNat 4 c) (fieldX w) (fieldY w) (fieldN w) = w := by
  rw [← h, BitVec.ofNat_toNat, BitVec.setWidth_eq, wordXYN_fields]

theorem wordXYN_of_class_N {w : Word} {c n : Nat} (h : (fieldClass w).toNat = c) (hn : (fieldN w).toNat = n) :
    wordXYN (BitVec.ofNat 4 c) (fieldX w) (fieldY w) (BitVec.ofNat 4 n) = w := by
  rw [← hn, BitVec.ofNat_toNat, BitVec.setWidth_eq, wordXYN_of_class h]

/-! ## What the decoder answers, encoded -/

theorem encode_of_decodeClass0 {w : Word} {i : Instr} (h : decodeClass0 w = .ok i) : encode i = w := by
  unfold decodeClass0 at h
  split_ifs at h with h0 h1 h2 <;> cases h <;> exact Eq.symm ‹_›

theorem encode_of_decodeClass8 {w : Word} {i : Instr} (hc : (fieldClass w).toNat = 8) (h : decodeClass8 w = .ok i) :
    encode i = w := by
  unfold decodeClass8 at h
  split at h <;> cases h <;> exact wordXYN_of_class_N hc ‹_›

theorem encode_of_decodeClassE {w : Word} {i : Instr} (hc : (fieldClass w).toNat = 14) (h : decodeClassE w = .ok i) :
    encode i = w := by
  unfold decodeClassE at h
  split at h <;> cases h <;> exact wordXI_of_class_NN hc ‹_›

theorem encode_of_decodeClassF {w : Word} {i : Instr} (hc : (fieldClass w).toNat = 15) (h : decodeClassF w = .ok i) :
    encode i = w := by
  unfold decodeClassF at h
  split at h <;> cases h <;> exact wordXI_of_class_NN hc ‹_›

theorem encode_of_decodeWord {w : Word} {i : Instr} (h : decodeWord w = .ok i) : encode i = w := by
  unfold decodeWord at h
  split at h
  case h_1 hc => exact encode_of_decodeClass0 h
  case h_9 hc => exact encode_of_decodeClass8 hc h
  case h_15 hc => exact encode_of_decodeClassE hc h
  case h_16 =>
    have hlt := (fieldClass w).isLt
    have hc : (fieldClass w).toNat = 15 := by grind
    exact encode_of_decodeClassF hc h
  case h_2 hc | h_3 hc | h_11 hc | h_12 hc => cases h; exact wordA_of_class hc
  case h_4 hc | h_5 hc | h_7 hc | h_8 hc | h_13 hc => cases h; exact wordXI_of_class hc
  case h_14 hc => cases h; exact wordXYN_of_class hc
  case h_6 hc | h_10 hc =>
    split at h
    next hn => cases h; exact wordXYN_of_class_N hc (congrArg BitVec.toNat hn)
    next => cases h

/-- Settles O2: class by class, the instruction is built from the fields of the word, which together are the whole word
(R71, R75). -/
theorem encodeOfDecodedWord : Obligations.EncodeOfDecodedWord := fun _ _ => encode_of_decodeWord

/-! ## The unimplemented words (R77) -/

theorem decodeClass0_not_ok_iff (w : Word) :
    (∀ i, decodeClass0 w ≠ .ok i) ↔ w ≠ 0x0000 ∧ w ≠ 0x00E0 ∧ w ≠ 0x00EE := by
  unfold decodeClass0
  split_ifs <;> simp_all

theorem decodeClass8_not_ok_iff (w : Word) :
    (∀ i, decodeClass8 w ≠ .ok i) ↔ w.toNat % 16 ∈ [0x8, 0x9, 0xA, 0xB, 0xC, 0xD, 0xF] := by
  have hlt : w.toNat % 16 < 16 := Nat.mod_lt _ (by decide)
  rw [decodeClass8, toNat_fieldN]
  generalize w.toNat % 16 = n at hlt
  interval_cases n <;> simp

theorem decodeClassE_not_ok_iff (w : Word) :
    (∀ i, decodeClassE w ≠ .ok i) ↔ w.toNat % 256 ∉ [0x9E, 0xA1] := by
  rw [decodeClassE, toNat_fieldNN]
  split <;> simp_all

theorem decodeClassF_not_ok_iff (w : Word) :
    (∀ i, decodeClassF w ≠ .ok i) ↔ w.toNat % 256 ∉ [0x07, 0x0A, 0x15, 0x18, 0x1E, 0x29, 0x33, 0x55, 0x65] := by
  rw [decodeClassF, toNat_fieldNN]
  split <;> simp_all

theorem fieldN_eq_zero_iff (w : Word) : fieldN w = 0#4 ↔ w.toNat % 16 = 0 := by
  rw [← toNat_fieldN, ← BitVec.toNat_inj]; rfl

/-- Settles O4: both sides are settled by the class, and in classes 0, 5, 8, 9, E and F by what the decoder looks at there
(R73, R77). -/
theorem unimplementedWordsByClass : Obligations.UnimplementedWordsByClass := fun w => by
  have hlt : w.toNat / 4096 < 16 := by have := w.isLt; omega
  rw [decodeWord, toNat_fieldClass]
  generalize w.toNat / 4096 = c at hlt
  match c, hlt with
  | 0, _ => simpa using decodeClass0_not_ok_iff w
  | 8, _ => simpa using decodeClass8_not_ok_iff w
  | 14, _ => simpa using decodeClassE_not_ok_iff w
  | 15, _ => simpa using decodeClassF_not_ok_iff w
  | 5, _ | 9, _ => by_cases hn : w.toNat % 16 = 0 <;> simp [fieldN_eq_zero_iff, hn]
  | 1, _ | 2, _ | 3, _ | 4, _ | 6, _ | 7, _ | 10, _ | 11, _ | 12, _ | 13, _ => simp
  | n + 16, h => omega

/-! ## The opcode map (R75) -/

open Laws.EncodedRow in
/-- Every instruction's own row of the opcode map selects its word. -/
theorem encodedRow : ∀ i : Instr, Statement i
  | .halt => halt | .cls => cls | .ret => ret
  | .jp a => jp a | .call a => call a | .ldI a => ldI a | .jpV0 a => jpV0 a
  | .seImm x n => seImm x n | .sneImm x n => sneImm x n | .ldImm x n => ldImm x n | .addImm x n => addImm x n
  | .rnd x n => rnd x n
  | .seReg x y => seReg x y | .sneReg x y => sneReg x y | .ldReg x y => ldReg x y | .orReg x y => orReg x y
  | .andReg x y => andReg x y | .xorReg x y => xorReg x y | .addReg x y => addReg x y | .subReg x y => subReg x y
  | .shr x y => shr x y | .subn x y => subn x y | .shl x y => shl x y
  | .drw x y n => drw x y n
  | .skp x => skp x | .sknp x => sknp x
  | .ldVxDt x => ldVxDt x | .ldVxK x => ldVxK x | .ldDtVx x => ldDtVx x | .ldStVx x => ldStVx x | .addI x => addI x
  | .ldF x => ldF x | .ldB x => ldB x | .dumpRegs x => dumpRegs x | .loadRegs x => loadRegs x

/-- No two rows have one mnemonic. -/
theorem mnemonics_nodup : (opcodeMap.map OpcodeRow.mnemonic).Nodup := by decide

/-- A decoded word is selected by the row of its instruction's mnemonic. -/
theorem selects_of_decodeWord {w : Word} {i : Instr} {row : OpcodeRow} (hr : row ∈ opcodeMap) (h : decodeWord w = .ok i)
    (hm : i.mnemonic = row.mnemonic) : w &&& row.mask = row.value := by
  obtain ⟨row', hr', hm', hs⟩ := encodedRow i
  obtain rfl : row' = row := List.inj_on_of_nodup_map mnemonics_nodup hr' hr (hm'.trans hm)
  rwa [encode_of_decodeWord h, OpcodeRow.selects, beq_iff_eq] at hs

/-- No word selects two rows (R75). -/
theorem row_unique {w : Word} {r r' : OpcodeRow} (hr : r ∈ opcodeMap) (hr' : r' ∈ opcodeMap)
    (h : w &&& r.mask = r.value) (h' : w &&& r'.mask = r'.value) : r = r' := by
  have hapart : ∀ a ∈ opcodeMap, ∀ b ∈ opcodeMap, a.apart b = true ∨ a = b := by decide
  refine (hapart r hr r' hr').resolve_left fun ha => bne_iff_ne.mp ha ?_
  rw [← h, ← h', BitVec.and_assoc, BitVec.and_assoc, BitVec.and_comm r.mask]

/-! A row that fixes a field of the word gives the field its value. -/

theorem extractLsb'_of_selects {w m v : Word} {start len : Nat} (h : w &&& m = v)
    (hm : m.extractLsb' start len = BitVec.allOnes len) : w.extractLsb' start len = v.extractLsb' start len := by
  rw [← h, BitVec.extractLsb'_and, hm, BitVec.and_allOnes]

theorem class_of_selects {w m v : Word} (h : w &&& m = v) (hm : fieldClass m = BitVec.allOnes 4) :
    w.toNat / 4096 = v.toNat / 4096 := by
  rw [← toNat_fieldClass, ← toNat_fieldClass, fieldClass, extractLsb'_of_selects h hm, fieldClass]

theorem N_of_selects {w m v : Word} (h : w &&& m = v) (hm : fieldN m = BitVec.allOnes 4) :
    w.toNat % 16 = v.toNat % 16 := by
  rw [← toNat_fieldN, ← toNat_fieldN, fieldN, extractLsb'_of_selects h hm, fieldN]

theorem NN_of_selects {w m v : Word} (h : w &&& m = v) (hm : fieldNN m = BitVec.allOnes 8) :
    w.toNat % 256 = v.toNat % 256 := by
  rw [← toNat_fieldNN, ← toNat_fieldNN, fieldNN, extractLsb'_of_selects h hm, fieldNN]

/-- A row of the opcode map fixes, besides the class, what the decoder looks at in that class, at a value it knows (R75). -/
theorem opcodeMap_fixes : ∀ row ∈ opcodeMap, fieldClass row.mask = BitVec.allOnes 4 ∧
    (row.value.toNat / 4096 = 0 → row.mask = BitVec.allOnes 16 ∧ row.value ∈ [0x0000, 0x00E0, 0x00EE]) ∧
    (row.value.toNat / 4096 = 5 ∨ row.value.toNat / 4096 = 9 → fieldN row.mask = BitVec.allOnes 4 ∧ row.value.toNat % 16 = 0) ∧
    (row.value.toNat / 4096 = 8 → fieldN row.mask = BitVec.allOnes 4 ∧
      row.value.toNat % 16 ∉ [0x8, 0x9, 0xA, 0xB, 0xC, 0xD, 0xF]) ∧
    (row.value.toNat / 4096 = 14 → fieldNN row.mask = BitVec.allOnes 8 ∧ row.value.toNat % 256 ∈ [0x9E, 0xA1]) ∧
    (row.value.toNat / 4096 = 15 → fieldNN row.mask = BitVec.allOnes 8 ∧
      row.value.toNat % 256 ∈ [0x07, 0x0A, 0x15, 0x18, 0x1E, 0x29, 0x33, 0x55, 0x65]) := by
  decide

/-- A word that a row selects decodes to some instruction. -/
theorem decodes_of_selects {w : Word} {row : OpcodeRow} (hr : row ∈ opcodeMap) (h : w &&& row.mask = row.value) :
    ∃ i, decodeWord w = .ok i := by
  by_contra hno
  obtain ⟨hmask, hclass0, hclass59, hclass8, hclassE, hclassF⟩ := opcodeMap_fixes row hr
  have hcls := class_of_selects h hmask
  rcases (unimplementedWordsByClass w).mp (not_exists.mp hno) with
    ⟨hc, hw⟩ | ⟨hc, hw⟩ | ⟨hc, hw⟩ | ⟨hc, hw⟩ | ⟨hc, hw⟩ | ⟨hc, hw⟩
  · obtain ⟨hm, hv⟩ := hclass0 (hcls ▸ hc)
    rw [← h, hm, BitVec.and_allOnes] at hv
    simp_all
  · obtain ⟨hm, hv⟩ := hclass59 (.inl (hcls ▸ hc))
    exact hw ((N_of_selects h hm).trans hv)
  · obtain ⟨hm, hv⟩ := hclass8 (hcls ▸ hc)
    exact hv (N_of_selects h hm ▸ hw)
  · obtain ⟨hm, hv⟩ := hclass59 (.inr (hcls ▸ hc))
    exact hw ((N_of_selects h hm).trans hv)
  · obtain ⟨hm, hv⟩ := hclassE (hcls ▸ hc)
    exact hw (NN_of_selects h hm ▸ hv)
  · obtain ⟨hm, hv⟩ := hclassF (hcls ▸ hc)
    exact hw (NN_of_selects h hm ▸ hv)

/-- Settles O3: a selected word decodes, since a row fixes all the decoder looks at; the decoded instruction's own row selects
its word too, and no word selects two rows (R75). -/
theorem decoderFollowsOpcodeMap : Obligations.DecoderFollowsOpcodeMap := fun w row hr =>
  ⟨fun h => by
    obtain ⟨i, hi⟩ := decodes_of_selects hr h
    obtain ⟨row', hr', hm', hs⟩ := encodedRow i
    rw [encode_of_decodeWord hi, OpcodeRow.selects, beq_iff_eq] at hs
    exact ⟨i, hi, row_unique hr' hr hs h ▸ hm'.symm⟩,
  fun ⟨_, hi, hm⟩ => selects_of_decodeWord hr hi hm⟩

/-! ## Words written out -/

/-- Settles O5: the decoder run on the ten words (95_test_vectors.md 2.1). -/
theorem writtenOutWordsDecode : Obligations.WrittenOutWordsDecode := by
  unfold Obligations.WrittenOutWordsDecode
  decide

end Sys2Proof
end

section
/-!
PROOFS. What every instruction leaves unchanged: the components each one touches, and that it touches no others unless it ends
in a fatal error (spec/10_state.md R20 to R31).
-/

namespace Sys2Proof.Machine

/-! ## Frames -/

theorem agree_trans {c : Component} {s t u : State} (h : agree c s t) (h' : agree c t u) : agree c s u := by
  cases c with
  | inputs =>
    obtain ⟨h1, h2, h3⟩ := h
    obtain ⟨h1', h2', h3'⟩ := h'
    exact ⟨h1'.trans h1, h2'.trans h2, h3'.trans h3⟩
  | stack => exact fun k => (h' k).trans (h k)
  | mem => exact fun a => (h' a).trans (h a)
  | regs => exact fun r => (h' r).trans (h r)
  | disp => exact fun r c => (h' r c).trans (h r c)
  | _ => exact Eq.trans h' h

theorem frameExcept_refl (l : List Component) (s : State) : FrameExcept l s s := fun c _ => agree_refl c s

theorem FrameExcept.mono {l l' : List Component} {s t : State} (h : FrameExcept l s t) (hl : l ⊆ l') : FrameExcept l' s t :=
  fun c hc => h c fun hm => hc (hl hm)

/-- Two changes in a row leave alone what neither touches. -/
theorem FrameExcept.trans {l : List Component} {s t u : State} (h : FrameExcept l s t) (h' : FrameExcept l t u) :
    FrameExcept l s u := fun c hc => agree_trans (h c hc) (h' c hc)

theorem frameExcept_setRun (s : State) (v : Run) : FrameExcept [.run] s (s.setRun v) := by
  intro c hc
  cases c with
  | run => simp at hc
  | _ => simp [agree]

theorem frameExcept_setMem (s : State) (m : Memory) : FrameExcept [.mem] s (s.setMem m) := by
  intro c hc
  cases c with
  | mem => simp at hc
  | _ => simp [agree]

theorem frameExcept_setSp (s : State) (v : Fin 17) : FrameExcept [.sp] s (s.setSp v) := by
  intro c hc
  cases c with
  | sp => simp at hc
  | _ => simp [agree]

theorem frameExcept_setStack (s : State) (v : Vector Word 16) : FrameExcept [.stack] s (s.setStack v) := by
  intro c hc
  cases c with
  | stack => simp at hc
  | _ => simp [agree]

theorem frameExcept_setFresh (s : State) (n : Nat) : FrameExcept [.inputs] s (s.setFresh n) := by
  intro c hc
  cases c with
  | inputs => simp at hc
  | _ => simp [agree]

theorem frameExcept_showDisplay (s : State) (d : Display) : FrameExcept [.disp, .displayUpdated] s (s.showDisplay d) := by
  intro c hc
  cases c with
  | disp | displayUpdated => simp at hc
  | _ => simp [agree]

theorem frameExcept_drawRnd (s : State) : FrameExcept [.inputs] s (drawRnd s).2 := by
  intro c hc
  cases c with
  | inputs => simp at hc
  | _ => simp [agree]

theorem frameExcept_beginStep (s : State) : FrameExcept [.key, .displayUpdated, .inputs] s (beginStep s) := by
  intro c hc
  cases c with
  | key | displayUpdated | inputs => simp at hc
  | _ => simp [agree]

theorem frameExcept_timerTick (s : State) : FrameExcept [.dt, .st] s (timerTick s) :=
  ((frameExcept_setDt s _).mono (by simp)).trans ((frameExcept_setSt _ _).mono (by simp))

theorem frameExcept_setRegsFrom (s : State) (i : Nat) (bs : List Byte) : FrameExcept [.regs] s (s.setRegsFrom i bs) := by
  rw [State.setRegsFrom_eq]
  exact frameExcept_withRegs s _

theorem frameExcept_call (s : State) (v : Vector Word 16) (n : Fin 17) (p : Word) :
    FrameExcept [.pc, .sp, .stack] s (((s.setStack v).setSp n).setPc p) :=
  (((frameExcept_setStack s v).mono (by simp)).trans ((frameExcept_setSp _ n).mono (by simp))).trans
    ((frameExcept_setPc _ p).mono (by simp))

theorem frameExcept_ret (s : State) (n : Fin 17) (p : Word) : FrameExcept [.pc, .sp] s ((s.setSp n).setPc p) :=
  ((frameExcept_setSp s n).mono (by simp)).trans ((frameExcept_setPc _ p).mono (by simp))

theorem frameExcept_draw (s : State) (d : Display) (v : Byte) :
    FrameExcept [.regs, .disp, .displayUpdated] s ((s.showDisplay d).setFlag v) :=
  ((frameExcept_showDisplay s d).mono (by simp)).trans ((frameExcept_setReg _ flagReg v).mono (by simp))

theorem frameExcept_storeKey (s : State) (n : Nat) (x : RegIdx) (v : Byte) :
    FrameExcept [.regs, .inputs] s ((s.setFresh n).setReg x v) :=
  ((frameExcept_setFresh s n).mono (by simp)).trans ((frameExcept_setReg _ x v).mono (by simp))

theorem frameExcept_rnd (s : State) (x : RegIdx) (v : Byte) : FrameExcept [.regs, .inputs] s ((drawRnd s).2.setReg x v) :=
  ((frameExcept_drawRnd s).mono (by simp)).trans ((frameExcept_setReg _ x v).mono (by simp))

/-! ## What each instruction answers, where its meaning has one path -/

theorem exec_halt (s : State) : exec .halt s = .next (s.setRun .halted) := rfl

theorem exec_cls (s : State) : exec .cls s = .next (s.showDisplay Display.blank) := rfl

theorem exec_jpV0 (s : State) (nnn : Addr12) :
    exec (.jpV0 nnn) s = .next (s.setPc (zextAddr nnn + zextByte (s.reg 0))) := rfl

theorem exec_seImm (s : State) (x : RegIdx) (nn : Byte) : exec (.seImm x nn) s = .next (s.skipIf (s.reg x == nn)) := rfl

theorem exec_sneImm (s : State) (x : RegIdx) (nn : Byte) : exec (.sneImm x nn) s = .next (s.skipIf (!(s.reg x == nn))) := rfl

theorem exec_seReg (s : State) (x y : RegIdx) : exec (.seReg x y) s = .next (s.skipIf (s.reg x == s.reg y)) := rfl

theorem exec_sneReg (s : State) (x y : RegIdx) : exec (.sneReg x y) s = .next (s.skipIf (!(s.reg x == s.reg y))) := rfl

theorem exec_subReg (s : State) (x y : RegIdx) :
    exec (.subReg x y) s = .next (writeResultThenFlag s x (s.reg x - s.reg y) (noBorrowFlag (s.reg x) (s.reg y))) := rfl

theorem exec_subn (s : State) (x y : RegIdx) :
    exec (.subn x y) s = .next (writeResultThenFlag s x ((subnOperands s x y).1 - (subnOperands s x y).2)
      (borrowFlag (subnOperands s x y).1 (subnOperands s x y).2)) := rfl

theorem exec_shr (s : State) (x y : RegIdx) :
    exec (.shr x y) s =
      .next (writeResultThenFlag s x (shiftOperand s x y >>> 1) (shiftedOutRight (shiftOperand s x y))) := rfl

theorem exec_shl (s : State) (x y : RegIdx) :
    exec (.shl x y) s =
      .next (writeResultThenFlag s x (shiftOperand s x y <<< 1) (shiftedOutLeft (shiftOperand s x y))) := rfl

theorem exec_ldI (s : State) (nnn : Addr12) : exec (.ldI nnn) s = .next (s.setIndex (zextAddr nnn)) := rfl

theorem exec_addI (s : State) (x : RegIdx) : exec (.addI x) s = .next (s.setIndex (s.index + zextByte (s.reg x))) := rfl

theorem exec_rnd (s : State) (x : RegIdx) (nn : Byte) :
    exec (.rnd x nn) s = .next ((drawRnd s).2.setReg x ((drawRnd s).1 &&& nn)) := rfl

/-! ## The components an instruction touches -/

/-- The components an instruction may change when it completes: where the spec names it as the writer (R20). -/
def touched : Instr → List Component
  | .halt => [.run]
  | .cls => [.disp, .displayUpdated]
  | .ret => [.pc, .sp]
  | .call _ => [.pc, .sp, .stack]
  | .jp _ | .jpV0 _ | .seImm _ _ | .sneImm _ _ | .seReg _ _ | .sneReg _ _ | .skp _ | .sknp _ => [.pc]
  | .ldImm _ _ | .addImm _ _ | .ldReg _ _ | .orReg _ _ | .andReg _ _ | .xorReg _ _ | .addReg _ _ | .subReg _ _ | .shr _ _
  | .subn _ _ | .shl _ _ | .ldVxDt _ | .loadRegs _ => [.regs]
  | .drw _ _ _ => [.regs, .disp, .displayUpdated]
  | .rnd _ _ => [.regs, .inputs]
  | .ldVxK _ => [.regs, .run, .inputs]
  | .ldDtVx _ => [.dt]
  | .ldStVx _ => [.st]
  | .ldI _ | .addI _ | .ldF _ => [.index]
  | .ldB _ | .dumpRegs _ => [.mem]

/-- An instruction with one path touches only its own components. -/
theorem frameExcept_touched_of_hasOnePath {i : Instr} {s t : State} (hi : hasOnePath i = true) (h : exec i s = .next t) :
    FrameExcept (touched i) s t := by
  cases i with
  | ret | call | drw | ldB | dumpRegs | loadRegs | ldVxK => cases hi
  | halt => cases h; exact frameExcept_setRun s _
  | cls => cases h; exact frameExcept_showDisplay s _
  | jp | jpV0 => cases h; exact frameExcept_setPc s _
  | seImm | sneImm | seReg | sneReg | skp | sknp => cases h; exact frameExcept_skipIf s _
  | ldImm | addImm | ldReg | orReg | andReg | xorReg | ldVxDt => cases h; exact frameExcept_setReg s _ _
  | addReg | subReg | shr | subn | shl => cases h; exact frameExcept_writeResultThenFlag s _ _ _
  | rnd => cases h; exact frameExcept_rnd s _ _
  | ldDtVx => cases h; exact frameExcept_setDt s _
  | ldStVx => cases h; exact frameExcept_setSt s _
  | ldI | addI | ldF => cases h; exact frameExcept_setIndex s _

/-- Every instruction ends in a fatal error or touches only its own components. -/
theorem exec_frame {i : Instr} {s t : State} (h : exec i s = .next t) :
    (∃ e, t = raise e s) ∨ FrameExcept (touched i) s t := by
  rcases exec_cases h with he | ⟨k, rfl, -, rfl⟩ | ⟨n, k, rfl, -, rfl⟩ | ⟨x, y, n, d, b, rfl, rfl⟩ |
    ⟨x, m, rfl | rfl, rfl, -⟩ | ⟨x, l, rfl, -, rfl⟩ | ⟨x, rfl, rfl | ⟨n, v, rfl⟩⟩ | hi
  · exact .inl he
  · exact .inr (frameExcept_ret s _ _)
  · exact .inr (frameExcept_call s _ _ _)
  · exact .inr (frameExcept_draw s _ _)
  · exact .inr (frameExcept_setMem s m)
  · exact .inr (frameExcept_setMem s m)
  · exact .inr (frameExcept_setRegsFrom s 0 l)
  · exact .inr ((frameExcept_setRun s _).mono (by simp [touched]))
  · exact .inr ((frameExcept_storeKey s n x v).mono (by simp [touched]))
  · exact .inr (frameExcept_touched_of_hasOnePath hi h)

end Sys2Proof.Machine
end

section
/-!
PROOFS. The whole-machine rules about one instruction: each component's writers, the flag register, the answers, and that ST is
invisible (spec/10_state.md R20 to R31, spec/60_exceptions.md R185).
-/

namespace Sys2Proof.Machine

/-! ## The registers an instruction writes -/

theorem reg_setReg_or (s : State) (x : RegIdx) (v : Byte) (r : RegIdx) : (s.setReg x v).reg r = s.reg r ∨ r = x := by
  by_cases h : r = x
  · exact .inr h
  · exact .inl (otherRegsKept_setReg s x v r h)

theorem reg_writeResultThenFlag_or (s : State) (x : RegIdx) (result flag : Byte) (r : RegIdx) :
    (writeResultThenFlag s x result flag).reg r = s.reg r ∨ r = x ∨ r = 15 := by
  by_cases h : r = x
  · exact .inr (.inl h)
  · by_cases h15 : r = 15
    · exact .inr (.inr h15)
    · exact .inl (otherRegsKeptButFlag_writeResultThenFlag s x result flag r h h15)

/-- The registers above the loaded block stay (R166). -/
theorem reg_setRegsFrom_or (s : State) (x : RegIdx) {bs : List Byte} (h : bs.length = x.toNat + 1) (r : RegIdx) :
    (s.setRegsFrom 0 bs).reg r = s.reg r ∨ r.toNat ≤ x.toNat := by
  by_cases hr : r.toNat ≤ x.toNat
  · exact .inr hr
  · rw [State.reg_setRegsFrom s 0 bs (by have := x.isLt; omega), if_pos (Nat.zero_le _),
      List.getD_eq_default _ _ (by omega)]
    exact .inl rfl

/-- Every instruction ends in a fatal error or changes only registers it may write. -/
theorem exec_reg {i : Instr} {s t : State} (h : exec i s = .next t) (hf : ¬ IsFaulted t) (r : RegIdx) :
    t.reg r = s.reg r ∨ mayWriteReg i r := by
  rcases exec_cases h with ⟨e, rfl⟩ | ⟨k, rfl, -, rfl⟩ | ⟨n, k, rfl, -, rfl⟩ | ⟨x, y, n, d, b, rfl, rfl⟩ |
    ⟨x, m, rfl | rfl, rfl, -⟩ | ⟨x, l, rfl, hl, rfl⟩ | ⟨x, rfl, rfl | ⟨n, v, rfl⟩⟩ | hi
  · exact absurd ⟨_, raise_run e s⟩ hf
  · exact .inl rfl
  · exact .inl rfl
  · exact reg_setReg_or (s.showDisplay d) 15 _ r
  · exact .inl rfl
  · exact .inl rfl
  · exact reg_setRegsFrom_or s x hl r
  · exact .inl rfl
  · exact reg_setReg_or (s.setFresh n) x v r
  · cases i with
    | ret | call | drw | ldB | dumpRegs | loadRegs | ldVxK => cases hi
    | halt | cls | jp | jpV0 | ldDtVx | ldStVx | ldI | addI | ldF => cases h; exact .inl rfl
    | seImm | sneImm | seReg | sneReg | skp | sknp => cases h; exact .inl (State.reg_skipIf s _ r)
    | ldImm | addImm | ldReg | orReg | andReg | xorReg | ldVxDt => cases h; exact reg_setReg_or s _ _ r
    | addReg | subReg | shr | subn | shl => cases h; exact reg_writeResultThenFlag_or s _ _ _ r
    | rnd x nn => cases h; exact (State.reg_drawRnd s r) ▸ reg_setReg_or (drawRnd s).2 x _ r

/-! ## Each component's writers -/

/-- A component that only some instructions touch is kept, or the instruction is one of these. -/
theorem agree_or_of_touched {i : Instr} {s t : State} (h : FrameExcept (touched i) s t) {c : Component} {p : Prop}
    (hp : c ∈ touched i → p) : agree c s t ∨ p := by
  by_cases hc : c ∈ touched i
  · exact .inr (hp hc)
  · exact .inl (h c hc)

theorem writers_of_pc {i : Instr} (h : .pc ∈ touched i) : i = .ret ∨ (∃ a, i = .jp a ∨ i = .call a ∨ i = .jpV0 a) ∨
    (∃ x, i = .skp x ∨ i = .sknp x) ∨ (∃ x n, i = .seImm x n ∨ i = .sneImm x n) ∨ ∃ x y, i = .seReg x y ∨ i = .sneReg x y := by
  cases i <;> simp [touched] at h ⊢

theorem writers_of_disp {i : Instr} (h : .disp ∈ touched i ∨ .displayUpdated ∈ touched i) :
    i = .cls ∨ ∃ x y n, i = .drw x y n := by
  cases i <;> simp [touched] at h ⊢

theorem writers_of_mem {i : Instr} (h : .mem ∈ touched i) : (∃ x, i = .ldB x) ∨ ∃ x, i = .dumpRegs x := by
  cases i <;> simp [touched] at h ⊢

theorem writers_of_index {i : Instr} (h : .index ∈ touched i) :
    (∃ a, i = .ldI a) ∨ (∃ x, i = .addI x) ∨ ∃ x, i = .ldF x := by
  cases i <;> simp [touched] at h ⊢

theorem writers_of_stack {i : Instr} (h : .stack ∈ touched i ∨ .sp ∈ touched i) : i = .ret ∨ ∃ a, i = .call a := by
  cases i <;> simp [touched] at h ⊢

theorem writers_of_dt {i : Instr} (h : .dt ∈ touched i) : ∃ x, i = .ldDtVx x := by
  cases i <;> simp [touched] at h ⊢

theorem writers_of_st {i : Instr} (h : .st ∈ touched i) : ∃ x, i = .ldStVx x := by
  cases i <;> simp [touched] at h ⊢

theorem writers_of_run {i : Instr} (h : .run ∈ touched i) : i = .halt ∨ ∃ x, i = .ldVxK x := by
  cases i <;> simp [touched] at h ⊢

theorem writers_of_inputs {i : Instr} (h : .inputs ∈ touched i) : (∃ x n, i = .rnd x n) ∨ ∃ x, i = .ldVxK x := by
  cases i <;> simp [touched] at h ⊢

theorem not_touched (i : Instr) : .key ∉ touched i ∧ .fault ∉ touched i ∧ .settings ∉ touched i := by
  cases i <;> simp [touched]

/-- The frame of a completed instruction. -/
theorem frame_of_completes {i : Instr} {s t : State} (h : exec i s = .next t) (hf : ¬ IsFaulted t) :
    FrameExcept (touched i) s t :=
  (exec_frame h).resolve_left fun ⟨e, he⟩ => hf (he ▸ ⟨_, raise_run e s⟩)

/-- Settles O23: each component's clause asks for it to be touched by its writers only, which the list of what each instruction
touches says; registers are told apart one by one (R20). -/
theorem eachComponentHasItsOwnWriters : Obligations.EachComponentHasItsOwnWriters := fun i s t h hf => by
  have hfr := frame_of_completes h hf
  obtain ⟨hkey, hfault, hset⟩ := not_touched i
  refine ⟨exec_reg h hf, agree_or_of_touched hfr writers_of_pc, ?_, agree_or_of_touched hfr writers_of_mem,
    agree_or_of_touched hfr writers_of_index, ?_, agree_or_of_touched hfr writers_of_dt, agree_or_of_touched hfr writers_of_st,
    agree_or_of_touched hfr writers_of_run, agree_or_of_touched hfr writers_of_inputs, hfr _ hkey, hfr _ hfault, hfr _ hset⟩
  · exact and_or_right.mpr ⟨agree_or_of_touched hfr fun hc => writers_of_disp (.inl hc),
      agree_or_of_touched hfr fun hc => writers_of_disp (.inr hc)⟩
  · exact and_or_right.mpr ⟨agree_or_of_touched hfr fun hc => writers_of_stack (.inl hc),
      agree_or_of_touched hfr fun hc => writers_of_stack (.inr hc)⟩

/-! ## The flag register -/

theorem exec_drw_cases {x y : RegIdx} {n : Nibble} {s t : State} (h : exec (.drw x y n) s = .next t) :
    (∃ e, t = raise e s) ∨ t = (s.showDisplay (drawnSprite s x y n).1).setFlag (flagOf (drawnSprite s x y n).2) := by
  by_cases hin : n = 0 ∨ s.index.toNat + n.toNat ≤ 4096
  · rw [exec_drw_in s x y n hin] at h; cases h; exact .inr rfl
  · obtain ⟨hn, hout⟩ := not_or.mp hin
    rw [exec_drw_out s x y n hn (by omega)] at h; cases h; exact .inl ⟨_, rfl⟩

theorem flagOf_zero_or_one (c : Bool) : flagOf c = 0 ∨ flagOf c = 1 := by
  cases c
  · exact .inl rfl
  · exact .inr rfl

/-- Settles O24: the flag writers end with a flag value in `x[15]`; of the others only a destination 15, or a block that reaches
it, may change it (R22, R133). -/
theorem flagChangesOnlyWhereListed : Obligations.FlagChangesOnlyWhereListed := fun i s t h hf => by
  have hreg := exec_reg h hf 15
  cases i with
  | addReg | subReg | subn | shr | shl => cases h; rw [reg_writeResultThenFlag_flag]; exact flagOf_zero_or_one _
  | drw x y n =>
    rcases exec_drw_cases h with ⟨e, rfl⟩ | rfl
    · exact absurd ⟨_, raise_run e s⟩ hf
    · rw [State.reg_setFlag, if_pos rfl]; exact flagOf_zero_or_one _
  | ldImm | addImm | ldReg | orReg | andReg | xorReg | rnd | ldVxDt | ldVxK => exact fun hx => hreg.resolve_right (Ne.symm hx)
  | loadRegs x =>
    refine fun hx => hreg.resolve_right fun hle => hx (BitVec.eq_of_toNat_eq ?_)
    have := x.isLt
    change 15 ≤ x.toNat at hle
    change x.toNat = 15
    omega
  | _ => exact hreg.resolve_right id

/-! ## Every instruction answers a next state, and reads nothing of ST -/

theorem State.skipIf_setSt (s : State) (v : Byte) (c : Bool) : (s.setSt v).skipIf c = (s.skipIf c).setSt v := by
  cases c <;> rfl

theorem drawRnd_setSt (s : State) (v : Byte) : drawRnd (s.setSt v) = ((drawRnd s).1, (drawRnd s).2.setSt v) := by
  simp only [drawRnd, State.setSt_rndIn]
  cases s.rndIn <;> rfl

theorem State.setRegsFrom_setSt (s : State) (v : Byte) (i : Nat) (bs : List Byte) :
    (s.setSt v).setRegsFrom i bs = (s.setRegsFrom i bs).setSt v := by
  induction bs generalizing s i with
  | nil => rfl
  | cons b bs ih => exact ih (s.setReg _ b) (i + 1)

theorem writeBytes_setSt (s : State) (v : Byte) (a : Nat) (bs : List Byte) :
    writeBytes (s.setSt v) a bs = (writeBytes s a bs).map (State.setSt · v) := by
  induction bs generalizing s a with
  | nil => rfl
  | cons b bs ih =>
    by_cases ha : a < 4096
    · simp only [writeBytes, memWrite_in _ b ha]; exact ih (s.setMem (s.mem.write a b)) (a + 1)
    · simp only [writeBytes, memWrite_out _ b ha]; rfl

theorem orRaise_map_setSt (s : State) (v : Byte) (r : Except FatalError State) : ∃ t, orRaise s r = .next t ∧
    (orRaise (s.setSt v) (r.map (State.setSt · v)) = .next t ∨
      orRaise (s.setSt v) (r.map (State.setSt · v)) = .next (t.setSt v)) := by
  cases r with
  | ok t => exact ⟨t, rfl, .inr rfl⟩
  | error e => exact ⟨raise e s, rfl, .inl rfl⟩

theorem storePressedKey_setSt (s : State) (v : Byte) (x : RegIdx) :
    storePressedKey x (s.setSt v) = (storePressedKey x s).map (State.setSt · v) := by
  simp only [storePressedKey, pickKey, State.setSt_key, State.setSt_settings]
  cases pressedKeys s.key with
  | nil => rfl
  | cons k ks => cases s.settings.keywaitPick <;> rfl

/-- Every instruction answers a next state, and from the state with another ST the same one or the one with that ST. -/
theorem exec_setSt (i : Instr) (s : State) (v : Byte) : ∃ t, exec i s = .next t ∧
    (exec i (s.setSt v) = .next t ∨ exec i (s.setSt v) = .next (t.setSt v)) := by
  cases i with
  | halt | cls | jp | jpV0 | ldImm | addImm | ldReg | orReg | andReg | xorReg | addReg | subReg | shr | subn | shl | ldVxDt
  | ldDtVx | ldI | addI | ldF => exact ⟨_, rfl, .inr rfl⟩
  | ldStVx => exact ⟨_, rfl, .inl rfl⟩
  | seImm | sneImm | seReg | sneReg | skp | sknp =>
    exact ⟨_, rfl, .inr (congrArg Host.Outcome.next (State.skipIf_setSt s v _))⟩
  | rnd x nn => exact ⟨_, rfl, .inr (by rw [exec_rnd, drawRnd_setSt]; rfl)⟩
  | ret =>
    by_cases hsp : s.sp.val = 0
    · exact ⟨_, exec_ret_empty s hsp, .inl (exec_ret_empty (s.setSt v) hsp)⟩
    · have hk : s.sp.val = (⟨s.sp.val - 1, by omega⟩ : Fin 16).val + 1 := by simp only; omega
      exact ⟨_, exec_ret_used s _ hk, .inr (exec_ret_used (s.setSt v) _ hk)⟩
  | call nnn =>
    by_cases hsp : s.sp.val = 16
    · exact ⟨_, exec_call_full s nnn hsp, .inl (exec_call_full (s.setSt v) nnn hsp)⟩
    · have hk : s.sp.val = (⟨s.sp.val, by omega⟩ : Fin 16).val := rfl
      exact ⟨_, exec_call_room s nnn _ hk, .inr (exec_call_room (s.setSt v) nnn _ hk)⟩
  | drw x y n =>
    by_cases hin : n = 0 ∨ s.index.toNat + n.toNat ≤ 4096
    · exact ⟨_, exec_drw_in s x y n hin, .inr (exec_drw_in (s.setSt v) x y n hin)⟩
    · obtain ⟨hn, hout⟩ := not_or.mp hin
      have hout : 4096 < s.index.toNat + n.toNat := by omega
      exact ⟨_, exec_drw_out s x y n hn hout, .inl (exec_drw_out (s.setSt v) x y n hn hout)⟩
  | loadRegs x =>
    by_cases hin : s.index.toNat + x.toNat ≤ 4095
    · exact ⟨_, exec_loadRegs_in s x hin,
        .inr ((exec_loadRegs_in (s.setSt v) x hin).trans (congrArg Host.Outcome.next (State.setRegsFrom_setSt s v 0 _)))⟩
    · have hout : 4095 < s.index.toNat + x.toNat := by omega
      exact ⟨_, exec_loadRegs_out s x hout, .inl (exec_loadRegs_out (s.setSt v) x hout)⟩
  | ldB x =>
    have hw := writeBytes_setSt s v (indexedAddr s 0) (bcdDigits (s.reg x))
    obtain ⟨t, ht, hu⟩ := orRaise_map_setSt s v (writeBytes s (indexedAddr s 0) (bcdDigits (s.reg x)))
    exact ⟨t, ht, by rwa [← hw] at hu⟩
  | dumpRegs x =>
    have hw := writeBytes_setSt s v (indexedAddr s 0) (blockRegs s x)
    obtain ⟨t, ht, hu⟩ := orRaise_map_setSt s v (writeBytes s (indexedAddr s 0) (blockRegs s x))
    exact ⟨t, ht, by rwa [← hw] at hu⟩
  | ldVxK x =>
    refine ⟨_, rfl, .inr ?_⟩
    change Host.Outcome.next ((storePressedKey x (s.setSt v)).getD _) = _
    rw [storePressedKey_setSt]
    cases storePressedKey x s <;> rfl

/-- Settles O25: from the state with another ST an instruction answers the same state, or the same but for that ST. -/
theorem soundTimerIsInvisible : Obligations.SoundTimerIsInvisible := fun i s t v h => by
  obtain ⟨t', ht, hu⟩ := exec_setSt i s v
  obtain rfl := Host.Outcome.next.inj (ht.symm.trans h)
  rcases hu with hu | hu
  · exact ⟨t', hu, agree_refl _ t', agree_refl _ t', fun _ => frameExcept_refl _ t'⟩
  · exact ⟨t'.setSt v, hu, rfl, rfl, fun _ => frameExcept_setSt t' v⟩

theorem exec_answers_next (i : Instr) (s : State) : ∃ t, exec i s = .next t :=
  (exec_setSt i s s.st).imp fun _ h => h.1

/-- A step ends as its instruction does, and every other end of a step is a next state. -/
theorem step_answers_next (s : State) : ∃ t, step s = .next t := by
  rcases step_cases (rfl : step s = step s) with ⟨-, e, -, h⟩ | ⟨-, w, e, -, -, h⟩ | ⟨-, w, i, -, -, h⟩ | ⟨r, -, t, -, h⟩ |
    ⟨r, -, -, ⟨-, h⟩ | ⟨-, h⟩⟩ | ⟨-, h⟩
  case inr.inr.inl =>
    obtain ⟨t, ht⟩ := exec_answers_next i ((beginStep s).setPc (s.pc + 2))
    exact ⟨_, by rw [h, ht, finishStep_next]⟩
  all_goals exact ⟨_, h⟩

/-- Settles O22: instruction by instruction, and then by the ways a step can end (R185). -/
theorem everyInstructionAndStepAnswersNext : Obligations.EveryInstructionAndStepAnswersNext :=
  ⟨exec_answers_next, step_answers_next⟩

end Sys2Proof.Machine
end

section
/-!
PROOFS. What every step keeps: the canonical memory, the bound on pc and the return addresses, the fault register's agreement
with `run`, the quiet terminal states and the settings (spec/10_state.md R23 to R37, spec/40_controller.md R90 to R94).
-/

namespace Sys2Proof.Machine

/-! ## The ways a step that answers a next state can end -/

/-- The states a poll of the key wait leads to before its tick: the key stored and the controller Running again, or only the
keypad sampled (R94). -/
def PolledState (r : RegIdx) (s u : State) : Prop :=
  u = beginStep s ∨ ∃ n v, u = (((beginStep s).setFresh n).setReg r v).setRun .running

theorem fetches_of_fetchWord {s : State} {w : Word} (hrun : s.run = .running) (h : fetchWord (beginStep s) = .ok w) :
    Fetches s w := by
  rw [fetchWord_eq, beginStep_pc, beginStep_mem] at h
  split_ifs at h with hpc
  cases h
  exact ⟨hrun, hpc, rfl⟩

/-- A step ends in a fatal error of the fetch or the decoder, executes an instruction, polls the key wait, or does nothing. -/
theorem step_next_cases {s t : State} (h : step s = .next t) :
    (∃ e u, u.settings = s.settings ∧ t = raise e u) ∨
    (∃ w i u, Fetches s w ∧ decodeWord w = .ok i ∧ exec i (atExecute s) = .next u ∧ (t = u ∨ t = timerTick u)) ∨
    (∃ r u, s.run = .waitKey r ∧ PolledState r s u ∧ (t = u ∨ t = timerTick u)) ∨
    t = s := by
  rcases step_cases h with ⟨-, e, -, ht⟩ | ⟨-, w, e, -, -, ht⟩ | ⟨hrun, w, i, hw, hi, ht⟩ | ⟨r, hrun, u, hu, ht⟩ |
    ⟨r, hrun, -, ⟨-, ht⟩ | ⟨-, ht⟩⟩ | ⟨-, ht⟩
  · cases ht; exact .inl ⟨e, _, beginStep_settings s, rfl⟩
  · cases ht; exact .inl ⟨_, _, beginStep_settings s, rfl⟩
  · obtain ⟨u, hu⟩ := exec_answers_next i (atExecute s)
    refine .inr (.inl ⟨w, i, u, fetches_of_fetchWord hrun hw, hi, hu, ?_⟩)
    rw [atExecute] at hu
    rw [hu, finishStep_next] at ht
    cases ht
    split_ifs
    · exact .inr rfl
    · exact .inl rfl
  · have hkey : (beginStep s).key ≠ 0 := fun h0 => by rw [storePressedKey_none r _ h0] at hu; cases hu
    obtain ⟨k, n, -, -, -, hk⟩ := storePressedKey_some r _ hkey
    cases hk.symm.trans hu
    cases ht
    exact .inr (.inr (.inl ⟨r, _, hrun, .inr ⟨n, _, rfl⟩, .inr rfl⟩))
  · cases ht; exact .inr (.inr (.inl ⟨r, _, hrun, .inl rfl, .inl rfl⟩))
  · cases ht; exact .inr (.inr (.inl ⟨r, _, hrun, .inl rfl, .inr rfl⟩))
  · cases ht; exact .inr (.inr (.inr rfl))

/-- What a step keeps: enough that the fatal errors, the executed instruction, the poll and the tick keep it. -/
theorem step_keeps {P : State → Prop} {s t : State} (h : step s = .next t) (hs : P s)
    (hraise : ∀ e u, u.settings = s.settings → P (raise e u))
    (hexec : ∀ w i u, Fetches s w → exec i (atExecute s) = .next u → P u)
    (hpoll : ∀ r u, s.run = .waitKey r → PolledState r s u → P u)
    (htick : ∀ u, P u → P (timerTick u)) : P t := by
  rcases step_next_cases h with ⟨e, u, hu, rfl⟩ | ⟨w, i, u, hf, -, hu, rfl | rfl⟩ | ⟨r, u, hr, hu, rfl | rfl⟩ | rfl
  · exact hraise e u hu
  · exact hexec w i t hf hu
  · exact htick u (hexec w i u hf hu)
  · exact hpoll r t hr hu
  · exact htick u (hpoll r u hr hu)
  · exact hs

/-! ## What the poll leaves unchanged -/

theorem PolledState.frame {r : RegIdx} {s u : State} (h : PolledState r s u) :
    FrameExcept [.regs, .key, .run, .displayUpdated, .inputs] s u := by
  have hb := (frameExcept_beginStep s).mono (l' := [.regs, .key, .run, .displayUpdated, .inputs]) (by simp)
  rcases h with rfl | ⟨n, v, rfl⟩
  · exact hb
  · exact hb.trans (((frameExcept_storeKey _ n r v).mono (by simp)).trans ((frameExcept_setRun _ _).mono (by simp)))

theorem PolledState.mem {r : RegIdx} {s u : State} (h : PolledState r s u) : u.mem = s.mem := by
  rcases h with rfl | ⟨n, v, rfl⟩ <;> simp

theorem PolledState.displayUpdated {r : RegIdx} {s u : State} (h : PolledState r s u) : u.displayUpdated = false := by
  rcases h with rfl | ⟨n, v, rfl⟩ <;> simp

theorem PolledState.run {r : RegIdx} {s u : State} (h : PolledState r s u) : u.run = s.run ∨ u.run = .running := by
  rcases h with rfl | ⟨n, v, rfl⟩
  · exact .inl (beginStep_run s)
  · exact .inr rfl

/-! ## The settings -/

theorem exec_settings {i : Instr} {s t : State} (h : exec i s = .next t) : t.settings = s.settings := by
  rcases exec_frame h with ⟨e, rfl⟩ | hf
  · exact raise_settings e s
  · exact hf .settings (not_touched i).2.2

/-- Settles O26: no instruction, no poll and no fatal error touches them. -/
theorem stepKeepsSettings : Obligations.StepKeepsSettings := fun s t h =>
  step_keeps (P := fun u => u.settings = s.settings) h rfl (fun _ _ hu => hu)
    (fun _ _ _ _ hu => (exec_settings hu).trans (beginStep_settings s))
    (fun _ _ _ hu => hu.frame .settings (by decide)) (fun _ hu => hu)

/-! ## The canonical memory -/

theorem exec_mem_of_hasOnePath {i : Instr} {s t : State} (hi : hasOnePath i = true) (h : exec i s = .next t) :
    t.mem = s.mem := by
  cases i with
  | ret | call | drw | ldB | dumpRegs | loadRegs | ldVxK => cases hi
  | seImm | sneImm | seReg | sneReg | skp | sknp => cases h; exact State.skipIf_mem s _
  | rnd => cases h; exact drawRnd_mem s
  | _ => cases h; rfl

theorem exec_keeps_mem_wf {i : Instr} {s t : State} (hs : s.mem.wf) (h : exec i s = .next t) : t.mem.wf := by
  rcases exec_cases h with ⟨e, rfl⟩ | ⟨k, rfl, -, rfl⟩ | ⟨n, k, rfl, -, rfl⟩ | ⟨x, y, n, d, b, rfl, rfl⟩ |
    ⟨x, m, -, rfl, hm⟩ | ⟨x, l, rfl, -, rfl⟩ | ⟨x, rfl, rfl | ⟨n, v, rfl⟩⟩ | hi
  · exact raise_mem_wf e s
  · exact hs
  · exact hs
  · exact hs
  · exact hm hs
  · rwa [State.setRegsFrom_mem]
  · exact hs
  · exact hs
  · rwa [exec_mem_of_hasOnePath hi h]

/-- Settles O9: the one thing that replaces memory outside a fatal error is a block write, which keeps the canonical form, and a
fatal error leaves a tabulated memory (R29, R50; log entry 1). -/
theorem stepKeepsMemoryCanonical : Obligations.StepKeepsMemoryCanonical := fun s _ hs h =>
  step_keeps (P := MemoryCanonical) h hs (fun e u _ => raise_mem_wf e u)
    (fun _ _ _ _ hu => exec_keeps_mem_wf (s := atExecute s) (by rwa [atExecute, State.setPc_mem, beginStep_mem]) hu)
    (fun _ _ _ hu => by rwa [MemoryCanonical, hu.mem]) (fun _ hu => hu)

/-! ## The fault register -/

theorem raise_faultMatchesRun (e : FatalError) (s : State) : FaultMatchesRun (raise e s) := rfl

theorem faultMatchesRun_congr {s t : State} (hr : t.run = s.run) (hf : t.fault = s.fault) :
    FaultMatchesRun t ↔ FaultMatchesRun s := by
  rw [FaultMatchesRun, FaultMatchesRun, hr, hf]

/-- Outside Faulted the agreement is that the fault register is zero. -/
theorem faultMatchesRun_iff_of_not_faulted {s : State} (h : ¬ IsFaulted s) :
    FaultMatchesRun s ↔ s.fault.code = 0 ∧ s.fault.info = 0 := by
  unfold FaultMatchesRun
  split
  next e he => exact absurd ⟨e, he⟩ h
  next => rfl

/-- A completed instruction leaves the controller as it was, or is HALT and halts it, or is LD Vx,K and suspends it. -/
theorem exec_run {i : Instr} {s t : State} (h : exec i s = .next t) : (∃ e, t = raise e s) ∨ t.run = s.run ∨
    (i = .halt ∧ t.run = .halted) ∨ ∃ x, i = .ldVxK x ∧ t.run = .waitKey x := by
  refine (exec_frame h).imp_right fun hf => ?_
  rcases agree_or_of_touched hf writers_of_run with hr | rfl | ⟨x, rfl⟩
  · exact .inl hr
  · cases h; exact .inr (.inl ⟨rfl, rfl⟩)
  · by_cases hkey : s.key = 0
    · rw [exec_ldVxK_none s x hkey] at h; cases h; exact .inr (.inr ⟨x, rfl, rfl⟩)
    · obtain ⟨k, n, -, -, -, hk⟩ := exec_ldVxK_some s x hkey
      rw [hk] at h; cases h; exact .inl rfl

theorem exec_not_faulted {i : Instr} {s t : State} (hs : ¬ IsFaulted s) (h : exec i s = .next t) :
    (∃ e, t = raise e s) ∨ ¬ IsFaulted t := by
  refine (exec_run h).imp_right ?_
  rintro (hr | ⟨-, hr⟩ | ⟨x, -, hr⟩) ⟨e, he⟩
  · exact hs ⟨e, hr ▸ he⟩
  · cases hr.symm.trans he
  · cases hr.symm.trans he

theorem exec_keeps_faultMatchesRun {i : Instr} {s t : State} (hr : ¬ IsFaulted s) (hs : FaultMatchesRun s)
    (h : exec i s = .next t) : FaultMatchesRun t := by
  rcases exec_not_faulted hr h with ⟨e, rfl⟩ | ht
  · exact raise_faultMatchesRun e s
  · have hf : t.fault = s.fault := frame_of_completes h ht .fault (not_touched i).2.1
    rw [faultMatchesRun_iff_of_not_faulted ht, hf]
    exact (faultMatchesRun_iff_of_not_faulted hr).mp hs

theorem atExecute_fault (s : State) : (atExecute s).fault = s.fault := by simp [atExecute]

theorem not_isFaulted_of_run {s : State} {r : Run} (h : s.run = r) (hr : ∀ e, r ≠ .faulted e) : ¬ IsFaulted s :=
  fun ⟨e, he⟩ => hr e (h ▸ he)

/-- Settles O11: a fatal error sets both fields together, and nothing else touches the fault register or makes the controller
Faulted (R31, R185). -/
theorem stepKeepsFaultRegisterInAgreement : Obligations.StepKeepsFaultRegisterInAgreement := fun s _ hs h => by
  refine step_keeps (P := FaultMatchesRun) h hs (fun e u _ => raise_faultMatchesRun e u) ?_ ?_ (fun _ hu => hu)
  · intro w i u hf hu
    have hrun : ¬ IsFaulted (atExecute s) := not_isFaulted_of_run ((atExecute_run s).trans hf.1) (by simp)
    exact exec_keeps_faultMatchesRun hrun ((faultMatchesRun_congr (atExecute_run s) (atExecute_fault s)).mpr hs) hu
  · intro r u hr hu
    have hfault : u.fault = s.fault := hu.frame .fault (by decide)
    have hns : ¬ IsFaulted s := not_isFaulted_of_run hr (by simp)
    have hnu : ¬ IsFaulted u := by
      rcases hu.run with h' | h'
      · exact not_isFaulted_of_run (h'.trans hr) (by simp)
      · exact not_isFaulted_of_run h' (by simp)
    rw [faultMatchesRun_iff_of_not_faulted hnu, hfault]
    exact (faultMatchesRun_iff_of_not_faulted hns).mp hs

/-! ## The display pulse in terminal states -/

theorem atExecute_displayUpdated (s : State) : (atExecute s).displayUpdated = false := by simp [atExecute]

/-- Settles O12: the step has ended the pulse before it executes, a fatal error ends it, and of the instructions that complete
only HALT ends the run, which does not draw (R154). -/
theorem stepKeepsTerminalStatesQuiet : Obligations.StepKeepsTerminalStatesQuiet := fun s _ hs h => by
  refine step_keeps (P := PulseQuietAtEnd) h hs (fun e u _ _ => raise_displayUpdated e u) ?_
    (fun _ _ _ hu _ => hu.displayUpdated) (fun _ hu => hu)
  intro w i u hf hu hend
  have hrun : (atExecute s).run = .running := (atExecute_run s).trans hf.1
  rcases exec_run hu with ⟨e, rfl⟩ | hr | ⟨rfl, -⟩ | ⟨x, -, hr⟩
  · exact raise_displayUpdated e _
  · rcases hend with he | ⟨e, he⟩ <;> cases (hr.trans hrun).symm.trans he
  · cases hu; exact atExecute_displayUpdated s
  · rcases hend with he | ⟨e, he⟩ <;> cases hr.symm.trans he

/-! ## The program counter and the return addresses -/

/-- The bounds that hold when an instruction executes: pc is past the word, so at most 0x1000 (R23, R54). -/
def PcInReach (s : State) : Prop := s.pc.toNat ≤ 0x1000 ∧ ∀ k : Fin 16, s.stack[k].toNat ≤ 0x1000

theorem toNat_zextAddr_add_zextByte (nnn : Addr12) (v : Byte) : (zextAddr nnn + zextByte v).toNat = nnn.toNat + v.toNat := by
  have := nnn.isLt
  have := v.isLt
  rw [BitVec.toNat_add, toNat_zextAddr, toNat_zextByte]
  omega

theorem pc_skipIf_le {s : State} (h : s.pc.toNat ≤ 0x1000) (c : Bool) : (s.skipIf c).pc.toNat ≤ 0x10FE := by
  have h2 : (s.pc + 2).toNat = s.pc.toNat + 2 := by bv_omega
  rw [State.skipIf_pc]
  split <;> omega

theorem exec_pc_le_of_hasOnePath {i : Instr} {s t : State} (hi : hasOnePath i = true) (hpc : s.pc.toNat ≤ 0x1000)
    (h : exec i s = .next t) : t.pc.toNat ≤ 0x10FE := by
  cases i with
  | ret | call | drw | ldB | dumpRegs | loadRegs | ldVxK => cases hi
  | jp nnn => cases h; have := nnn.isLt; rw [State.setPc_pc, toNat_zextAddr]; omega
  | jpV0 nnn =>
    cases h
    have := nnn.isLt
    have := (s.reg 0).isLt
    rw [State.setPc_pc, toNat_zextAddr_add_zextByte]
    omega
  | seImm | sneImm | seReg | sneReg | skp | sknp => cases h; exact pc_skipIf_le hpc _
  | _ =>
    have hkept : t.pc = s.pc := frameExcept_touched_of_hasOnePath hi h .pc (by simp [touched])
    rw [hkept]; omega

theorem exec_stack_of_hasOnePath {i : Instr} {s t : State} (hi : hasOnePath i = true) (h : exec i s = .next t) :
    agree .stack s t := by
  refine frameExcept_touched_of_hasOnePath hi h .stack fun hc => ?_
  rcases writers_of_stack (.inl hc) with rfl | ⟨a, rfl⟩ <;> cases hi

theorem exec_pcBounded {i : Instr} {s t : State} (hs : PcInReach s) (h : exec i s = .next t) : PcBounded t := by
  obtain ⟨hpc, hstack⟩ := hs
  have hpc' : s.pc.toNat ≤ 0x10FE := by omega
  rcases exec_cases h with ⟨e, rfl⟩ | ⟨k, rfl, -, rfl⟩ | ⟨n, k, rfl, -, rfl⟩ | ⟨x, y, n, d, b, rfl, rfl⟩ |
    ⟨x, m, -, rfl, hm⟩ | ⟨x, l, rfl, -, rfl⟩ | ⟨x, rfl, rfl | ⟨n, v, rfl⟩⟩ | hi
  · exact .inl ⟨_, raise_run e s⟩
  · exact .inr ⟨(hstack k).trans (by decide), hstack⟩
  · refine .inr ⟨by have := n.isLt; rw [State.setPc_pc, toNat_zextAddr]; omega, fun j => ?_⟩
    simp only [State.setPc_stack, State.setSp_stack, State.setStack_stack, Fin.getElem_fin, Vector.getElem_set]
    split
    · exact hpc
    · exact hstack j
  · exact .inr ⟨hpc', hstack⟩
  · exact .inr ⟨hpc', hstack⟩
  · exact .inr ⟨by rwa [State.setRegsFrom_pc], by rwa [State.setRegsFrom_stack]⟩
  · exact .inr ⟨hpc', hstack⟩
  · exact .inr ⟨hpc', hstack⟩
  · exact .inr ⟨exec_pc_le_of_hasOnePath hi hpc h, fun k => (exec_stack_of_hasOnePath hi h k) ▸ hstack k⟩

/-- A fetch within memory leaves pc at most 0x1000 at execute. -/
theorem pcInReach_atExecute {s : State} {w : Word} (hs : PcBounded s) (hf : Fetches s w) : PcInReach (atExecute s) := by
  obtain ⟨hrun, hpc, -⟩ := hf
  obtain ⟨-, hstack⟩ := hs.resolve_left (not_isFaulted_of_run hrun (by simp))
  have hpc2 : (atExecute s).pc.toNat = s.pc.toNat + 2 := by
    rw [atExecute, State.setPc_pc]
    bv_omega
  exact ⟨by omega, by simpa [atExecute] using hstack⟩

/-- Settles O10: a word that is fetched lies within memory, so pc is at most 0x1000 when its instruction executes and the reach
of the jumps and skips from there is 0x10FE (R23); only CALL stores a return address, and it is that pc (R100, R101). -/
theorem stepKeepsPcBounded : Obligations.StepKeepsPcBounded := fun s _ hs h => by
  refine step_keeps (P := PcBounded) h hs (fun e u _ => .inl ⟨_, raise_run e u⟩)
    (fun _ _ _ hf hu => exec_pcBounded (pcInReach_atExecute hs hf) hu) (fun r u hr hu => ?_) (fun _ hu => hu)
  obtain ⟨hpc, hstack⟩ := hs.resolve_left (not_isFaulted_of_run hr (by simp))
  have hpc' : u.pc = s.pc := hu.frame .pc (by decide)
  have hstack' : ∀ k : Fin 16, u.stack[k] = s.stack[k] := hu.frame .stack (by decide)
  exact .inr ⟨hpc' ▸ hpc, fun k => hstack' k ▸ hstack k⟩

end Sys2Proof.Machine
end

section
/-!
PROOFS. The controller: the step in each of its states, the fetch and its errors, HALT, the tick, the key wait and its poll
(spec/40_controller.md R90 to R94, spec/46_timers_keywait.md R173, spec/60_exceptions.md R181, R190, R191).
-/

namespace Sys2Proof.Machine

/-! ## The Running step -/

/-- The keypad is sampled from the inputs the host has fixed, if any (R27). -/
theorem beginStep_key_of_keysIn {s : State} {k : Word} {ks : List Word} (h : s.keysIn = k :: ks) :
    (beginStep s).key = k ∧ (beginStep s).keysIn = ks := by
  simp [beginStep, sampleKeys, h]

theorem frameExcept_atExecute (s : State) : FrameExcept [.pc, .key, .displayUpdated, .inputs] s (atExecute s) :=
  ((frameExcept_beginStep s).mono (by simp)).trans ((frameExcept_setPc _ _).mono (by simp))

/-- Settles O6: the fetch gives the word, the decoder the instruction, and the end of the step is one tick if the controller is
still Running (R90). -/
theorem stepRunsDecodedInstruction : Obligations.StepRunsDecodedInstruction := fun s w i hf hd => by
  refine ⟨?_, rfl, atExecute_displayUpdated s, fun k ks hk => beginStep_key_of_keysIn hk, frameExcept_atExecute s⟩
  obtain ⟨t, ht⟩ := exec_answers_next i (atExecute s)
  rw [step_of_fetches hf hd, ht, finishStep_next]

/-- Settles O18: the end of a Running step ticks both timers if the controller is still Running, and does nothing otherwise
(R190). -/
theorem timersTickOncePerCompletedInstruction : Obligations.TimersTickOncePerCompletedInstruction := fun s w i u hf hd hu => by
  have hstep : step s = .next (if u.run = .running then timerTick u else u) := by
    rw [step_of_fetches hf hd, hu, finishStep_next]
  exact ⟨fun hr => ⟨timerTick u, by rw [hstep, if_pos hr], toNat_tickTimer u.dt, toNat_tickTimer u.st, frameExcept_timerTick u⟩,
    fun hr => by rw [hstep, if_neg hr]⟩

/-- Settles O19: each tick takes one off, never below zero, by induction on the ticks (R190, R191). -/
theorem timerAfterManyTicks : Obligations.TimerAfterManyTicks := fun k v => by
  induction k generalizing v with
  | zero => rfl
  | succ k ih =>
    calc (tickTimer^[k] (tickTimer v)).toNat = (tickTimer v).toNat - k := ih (tickTimer v)
      _ = v.toNat - 1 - k := by rw [toNat_tickTimer]
      _ = v.toNat - (k + 1) := by omega

/-! ## HALT and the terminal states -/

/-- Settles O15: HALT is one update of `run`, after which the end of the step does not tick (R91). -/
theorem haltWordEndsTheRun : Obligations.HaltWordEndsTheRun := by
  refine ⟨fun s => ⟨_, exec_halt s, rfl, frameExcept_setRun s _⟩, fun s hf => ⟨(atExecute s).setRun .halted, ?_, rfl, rfl,
    atExecute_displayUpdated s,
    ((frameExcept_atExecute s).mono (by simp)).trans ((frameExcept_setRun _ _).mono (by simp))⟩⟩
  have hd : decodeWord 0x0000 = .ok .halt := rfl
  rw [step_of_fetches hf hd, exec_halt, finishStep_next, if_neg (by simp)]

theorem step_of_halted {s : State} (h : s.run = .halted) : step s = .next s := by
  simp only [step, controllerStep, h]

theorem step_of_faulted {s : State} {e : ErrorKind} (h : s.run = .faulted e) : step s = .next s := by
  simp only [step, controllerStep, h]

/-- Settles O13: the controller's step in Halted is the identity (R92). -/
theorem haltedStepDoesNothing : Obligations.HaltedStepDoesNothing := fun s h =>
  ⟨step_of_halted h, by rw [haltedOut, h]; rfl⟩

/-- Settles O14: the controller's step in Faulted is the identity (R93). -/
theorem faultedStepDoesNothing : Obligations.FaultedStepDoesNothing := fun _ _ h => step_of_faulted h

/-! ## The errors of the fetch and the decoder -/

theorem raised_raise (e : ErrorKind) (info : Word) (s : State) : Raised (raise ⟨e, info⟩ s) e (errorCode e) info :=
  ⟨rfl, rfl, rfl⟩

/-- Settles O16: the decoder's error is taken with the word as info (R77, R181). -/
theorem unimplementedWordRaises : Obligations.UnimplementedWordRaises := fun s w e hf hd => by
  have hw := fetchWord_beginStep_of_fetches hf
  obtain ⟨hrun, -, -⟩ := hf
  refine ⟨_, ?_, raised_raise .unimplementedOpcode w (atExecute s)⟩
  simp only [step, controllerStep, hrun, fetchAndExecute, hw, hd, beginStep_pc, atExecute]

/-- Settles O17: the fetch reports the first of its two addresses that is out of range (R54). -/
theorem fetchOutsideMemoryRaises : Obligations.FetchOutsideMemoryRaises := fun s hrun hpc => by
  have hw : fetchWord (beginStep s) = .error ⟨.outOfBoundsAccess, if 4095 < s.pc.toNat then s.pc else 0x1000⟩ := by
    rw [fetchWord_eq, beginStep_pc, if_neg (by omega), outOfBounds_max]
  refine ⟨_, ?_, raised_raise .outOfBoundsAccess _ (beginStep s)⟩
  simp only [step, controllerStep, hrun, fetchAndExecute, hw]

/-! ## The display pulse -/

/-- Of the instructions that complete, exactly CLS and DRW pulse the output (R154). -/
theorem exec_displayUpdated_iff {i : Instr} {s t : State} (hs : s.displayUpdated = false) (h : exec i s = .next t)
    (hf : ¬ IsFaulted t) : t.displayUpdated = true ↔ i = .cls ∨ ∃ x y n, i = .drw x y n := by
  refine ⟨fun ht => ?_, ?_⟩
  · refine (agree_or_of_touched (frame_of_completes h hf) fun hc => writers_of_disp (.inr hc)).resolve_left fun hk => ?_
    rw [agree, ht, hs] at hk
    cases hk
  · rintro (rfl | ⟨x, y, n, rfl⟩)
    · cases h; rfl
    · rcases exec_drw_cases h with ⟨e, rfl⟩ | rfl
      · exact absurd ⟨_, raise_run e s⟩ hf
      · rfl

/-- Settles O27: the step has ended the pulse before it executes, CLS and DRW set it when they complete, a fatal error ends it,
and the tick leaves it (R154). -/
theorem displayUpdatedPulsesForDrawing : Obligations.DisplayUpdatedPulsesForDrawing := fun s w i t hf hd h => by
  obtain ⟨u, hu⟩ := exec_answers_next i (atExecute s)
  rw [step_of_fetches hf hd, hu, finishStep_next] at h
  have hd' : displayUpdatedOut t = u.displayUpdated := by cases h; split <;> rfl
  have hr : IsFaulted t ↔ IsFaulted u := by cases h; split <;> rfl
  rw [hd', hr]
  by_cases hfu : IsFaulted u
  · have hns : ¬ IsFaulted (atExecute s) := not_isFaulted_of_run ((atExecute_run s).trans hf.1) (by simp)
    obtain ⟨e, rfl⟩ := (exec_not_faulted hns hu).resolve_right (not_not_intro hfu)
    simp [hfu]
  · rw [exec_displayUpdated_iff (atExecute_displayUpdated s) hu hfu]
    exact (and_iff_right hfu).symm

/-! ## The key wait -/

theorem reg_storeKey (s : State) (n : Nat) (x : RegIdx) {k : Nat} (hk : k < 16) :
    (((s.setFresh n).setReg x (BitVec.ofNat 8 k)).reg x).toNat = k := by
  rw [reg_setReg_self, BitVec.toNat_ofNat]
  omega

/-- Storing a key without a free draw changes registers only. -/
theorem frameExcept_storeKey_same (s : State) (x : RegIdx) (v : Byte) :
    FrameExcept [.regs] s ((s.setFresh s.fresh).setReg x v) :=
  frameExcept_setReg s x v

/-- Settles O21: with a key down the instruction stores its number, and without one it is one update of `run` (R173). -/
theorem keyWaitStoresKeyOrSuspends : Obligations.KeyWaitStoresKeyOrSuspends := fun s x => by
  by_cases hkey : s.key = 0
  · exact ⟨_, exec_ldVxK_none s x hkey, fun h => absurd hkey h, fun _ => ⟨rfl, frameExcept_setRun s _⟩⟩
  · obtain ⟨k, n, hk, hdown, hlow, he⟩ := exec_ldVxK_some s x hkey
    refine ⟨_, he, fun _ => ⟨⟨k, hk, hdown, reg_storeKey s n x hk, fun hp => ?_⟩, otherRegsKept_setReg (s.setFresh n) x _,
      frameExcept_storeKey s n x _⟩, fun h => absurd h hkey⟩
    obtain ⟨hlowest, rfl⟩ := hlow hp
    exact ⟨hlowest, frameExcept_storeKey_same s x _⟩

theorem step_of_waitKey {s : State} {r : RegIdx} (h : s.run = .waitKey r) : step s = pollKey r (beginStep s) := by
  simp only [step, controllerStep, h]

theorem pollKey_none {s : State} (r : RegIdx) (h : s.key = 0) :
    pollKey r s = .next (if s.settings.keywaitTimers = .running then timerTick s else s) := by
  simp only [pollKey, storePressedKey_none r s h]
  cases s.settings.keywaitTimers <;> rfl

theorem pollKey_some {s t : State} {r : RegIdx} (h : storePressedKey r s = some t) :
    pollKey r s = .next (timerTick (t.setRun .running)) := by
  simp only [pollKey, h]

/-- Settles O20: with no key down the poll is the sampling, and a tick under the alternative setting; with one down it is the
key stored, the controller Running and a tick (R94, R174). -/
theorem pollOfTheKeyWait : Obligations.PollOfTheKeyWait := fun s r hrun => by
  have hframe := frameExcept_beginStep s
  have hsampled : ∀ k ks, s.keysIn = k :: ks → (beginStep s).key = k := fun k ks hk => (beginStep_key_of_keysIn hk).1
  rw [step_of_waitKey hrun]
  by_cases hkey : (beginStep s).key = 0
  · rw [pollKey_none r hkey, beginStep_settings]
    cases ht : s.settings.keywaitTimers with
    | suspended =>
      exact ⟨beginStep s, rfl, hsampled, beginStep_displayUpdated s, fun _ => ⟨fun _ => hframe, fun h => nomatch h⟩,
        fun h => absurd hkey h⟩
    | running =>
      refine ⟨timerTick (beginStep s), rfl, hsampled, beginStep_displayUpdated s, fun _ => ⟨fun h => (nomatch h), fun _ => ?_⟩,
        fun h => absurd hkey h⟩
      exact ⟨by simp, by simp, (hframe.mono (by simp)).trans ((frameExcept_timerTick _).mono (by simp))⟩
  · obtain ⟨k, n, hk, hdown, hlow, hs⟩ := storePressedKey_some r (beginStep s) hkey
    rw [pollKey_some hs]
    refine ⟨_, rfl, hsampled, beginStep_displayUpdated s, fun h => absurd h hkey, fun _ => ⟨rfl, by simp, by simp,
      ⟨k, hk, hdown, reg_storeKey _ n r hk, fun hp => (hlow (by rwa [beginStep_settings])).1⟩, fun q hq => ?_, ?_⟩⟩
    · exact (otherRegsKept_setReg ((beginStep s).setFresh n) r _ q hq).trans (State.reg_beginStep s q)
    · exact (hframe.mono (by simp)).trans (((frameExcept_storeKey _ n r _).mono (by simp)).trans
        (((frameExcept_setRun _ _).mono (by simp)).trans ((frameExcept_timerTick _).mono (by simp))))

end Sys2Proof.Machine
end

section
/-!
PROOFS. The subtractions and the shifts (spec/42_alu.md R127 to R132).
-/

namespace Sys2Proof.Machine

/-! ## Flag values and results as numbers -/

theorem toNat_noBorrowFlag (a b : Byte) : (noBorrowFlag a b).toNat = if b.toNat ≤ a.toNat then 1 else 0 := by
  simp only [noBorrowFlag, toNat_flagOf, decide_eq_true_eq]

theorem toNat_borrowFlag (a b : Byte) : (borrowFlag a b).toNat = if a.toNat < b.toNat then 1 else 0 := by
  simp only [borrowFlag, toNat_flagOf, decide_eq_true_eq]

theorem toNat_shiftedOutRight (a : Byte) : (shiftedOutRight a).toNat = a.toNat % 2 := by
  rw [shiftedOutRight, toNat_flagOf, BitVec.getLsbD, Nat.testBit_zero]
  simp only [decide_eq_true_eq]
  split <;> omega

theorem toNat_shiftedOutLeft (a : Byte) : (shiftedOutLeft a).toNat = a.toNat / 128 := by
  have := a.isLt
  rw [shiftedOutLeft, toNat_flagOf, BitVec.getLsbD, Nat.testBit_eq_decide_div_mod_eq]
  simp only [decide_eq_true_eq]
  split <;> omega

theorem toNat_sub (a b : Byte) : (a - b).toNat = (a.toNat + 256 - b.toNat) % 256 := by
  have := b.isLt
  rw [BitVec.toNat_sub]
  congr 1
  omega

/-! ## An instruction that writes a result and then a flag -/

/-- The flag register holds the flag, and X the result unless X is the flag register; nothing else changes (R132). -/
theorem exists_of_exec_writes {i : Instr} {s : State} {x : RegIdx} {result flag : Byte} {r f : Nat}
    (h : exec i s = .next (writeResultThenFlag s x result flag)) (hflag : flag.toNat = f) (hresult : result.toNat = r) :
    ∃ t, exec i s = .next t ∧ (t.reg 15).toNat = f ∧ (x ≠ 15 → (t.reg x).toNat = r) ∧
      OtherRegsKeptButFlag x s t ∧ FrameExcept [.regs] s t :=
  ⟨_, h, by rw [reg_writeResultThenFlag_flag, hflag], fun hx => by rw [reg_writeResultThenFlag_result s _ _ hx, hresult],
    otherRegsKeptButFlag_writeResultThenFlag s x _ _, frameExcept_writeResultThenFlag s x _ _⟩

/-! ## The obligations -/

/-- Settles O32: no borrow is the flag, written last (R127). -/
theorem subtractSetsNoBorrowLast : Obligations.SubtractSetsNoBorrowLast := fun s x y =>
  exists_of_exec_writes (exec_subReg s x y) (toNat_noBorrowFlag _ _) (toNat_sub _ _)

theorem subnOperands_eq {s : State} {x y : RegIdx} {a b : Byte}
    (h : (s.settings.subnOrder = .asInput ∧ a = s.reg x ∧ b = s.reg y) ∨
      (s.settings.subnOrder = .reversed ∧ a = s.reg y ∧ b = s.reg x)) : subnOperands s x y = (a, b) := by
  rcases h with ⟨ho, rfl, rfl⟩ | ⟨ho, rfl, rfl⟩ <;> simp only [subnOperands, ho]

theorem exec_subn_of_operands {s : State} {x y : RegIdx} {a b : Byte} (h : subnOperands s x y = (a, b)) :
    exec (.subn x y) s = .next (writeResultThenFlag s x (a - b) (borrowFlag a b)) := by
  rw [exec_subn, h]

/-- Settles O33: in either order of the operands the borrow is the flag, written last (R128). -/
theorem subtractReverseSetsBorrowLast : Obligations.SubtractReverseSetsBorrowLast := fun _ _ _ a b h =>
  exists_of_exec_writes (exec_subn_of_operands (subnOperands_eq h)) (toNat_borrowFlag a b) (toNat_sub a b)

/-- Settles O34: SUB and SUBN write one result, and of the two flags one is 1, since a borrow is the opposite of no borrow
(R127, R128). -/
theorem subtractReverseMirrorsSubtract : Obligations.SubtractReverseMirrorsSubtract := fun s x y ho => by
  have he := exec_subn_of_operands (s := s) (x := x) (y := y) (subnOperands_eq (.inl ⟨ho, rfl, rfl⟩))
  refine ⟨_, _, exec_subReg s x y, he, ?_, fun r hr => ?_, frameExcept_withRegs _ _⟩
  · rw [reg_writeResultThenFlag_flag, reg_writeResultThenFlag_flag, toNat_noBorrowFlag, toNat_borrowFlag]
    split <;> split <;> omega
  · rw [reg_writeResultThenFlag, reg_writeResultThenFlag, if_neg hr, if_neg hr]

theorem shiftOperand_eq {s : State} {x y : RegIdx} {a : Byte}
    (h : (s.settings.shiftSource = .fromX ∧ a = s.reg x) ∨ (s.settings.shiftSource = .fromY ∧ a = s.reg y)) :
    shiftOperand s x y = a := by
  rcases h with ⟨hs, rfl⟩ | ⟨hs, rfl⟩ <;> simp only [shiftOperand, hs]

/-- Settles O35: the bit shifted out is the flag, written last (R129). -/
theorem shiftRightSetsLowBitLast : Obligations.ShiftRightSetsLowBitLast := fun s x y a h => by
  have he := exec_shr s x y
  rw [shiftOperand_eq h] at he
  exact exists_of_exec_writes he (toNat_shiftedOutRight a) (by rw [BitVec.toNat_ushiftRight, Nat.shiftRight_one])

/-- Settles O36: the bit shifted out is the flag, written last (R130). -/
theorem shiftLeftSetsHighBitLast : Obligations.ShiftLeftSetsHighBitLast := fun s x y a h => by
  have he := exec_shl s x y
  rw [shiftOperand_eq h] at he
  exact exists_of_exec_writes he (toNat_shiftedOutLeft a) (by rw [BitVec.toNat_shiftLeft, Nat.shiftLeft_eq, Nat.pow_one])

end Sys2Proof.Machine
end

section
/-!
PROOFS. The control transfers, the call stack, the random instruction, CLS and the index register (spec/41_control_flow.md,
spec/43_keypad_random.md R142, spec/44_display.md R150, spec/45_index_memory.md R160, R161).
-/

namespace Sys2Proof.Machine

/-- Settles O38: the sum cannot wrap, since it is below 4096 + 256 (R103). -/
theorem jumpWithOffsetAddsRegisterZero : Obligations.JumpWithOffsetAddsRegisterZero := fun s nnn =>
  ⟨_, exec_jpV0 s nnn, toNat_zextAddr_add_zextByte nnn (s.reg 0), frameExcept_setPc s _⟩

/-- Settles O43: each is one conditional skip, on equality or on its negation (R104 to R108). -/
theorem registerSkipsCompare : Obligations.RegisterSkipsCompare := fun s x y nn => by
  have hskip (a b : Byte) : (s.skipIf (a == b)).pc = if a = b then s.pc + 2 else s.pc := by simp
  have hskipNot (a b : Byte) : (s.skipIf (!(a == b))).pc = if a = b then s.pc else s.pc + 2 := by simp
  exact ⟨⟨_, exec_seImm s x nn, hskip _ _, frameExcept_skipIf s _⟩,
    ⟨_, exec_sneImm s x nn, hskipNot _ _, frameExcept_skipIf s _⟩,
    ⟨_, exec_seReg s x y, hskip _ _, frameExcept_skipIf s _⟩,
    ⟨_, exec_sneReg s x y, hskipNot _ _, frameExcept_skipIf s _⟩⟩

/-! ## The call stack -/

/-- Settles O39: with room CALL is a push and a jump, with 16 entries in use the error is taken (R101). -/
theorem callPushesOrOverflows : Obligations.CallPushesOrOverflows := fun s nnn => by
  refine ⟨fun hsp => ⟨_, exec_call_room s nnn ⟨s.sp.val, hsp⟩ rfl, rfl, toNat_zextAddr nnn, fun k => ?_,
      frameExcept_call s _ _ _⟩, fun hsp => ⟨_, exec_call_full s nnn hsp, rfl⟩⟩
  simp only [State.setPc_stack, State.setSp_stack, State.setStack_stack, Fin.getElem_fin, Vector.getElem_set, eq_comm]

/-- Settles O40: with an entry RET is a pop into pc, with none the error is taken (R100). -/
theorem returnPopsOrUnderflows : Obligations.ReturnPopsOrUnderflows := fun s =>
  ⟨fun k hk => ⟨_, exec_ret_used s k hk, rfl, rfl, frameExcept_ret s _ _⟩, fun hsp => ⟨_, exec_ret_empty s hsp, rfl⟩⟩

/-- Settles O41: both errors are taken with pc as info (R182). -/
theorem stackErrorsRecordPc : Obligations.StackErrorsRecordPc := fun s nnn =>
  ⟨fun hsp => ⟨_, exec_call_full s nnn hsp, raised_raise .stackOverflow s.pc s⟩,
    fun hsp => ⟨_, exec_ret_empty s hsp, raised_raise .stackUnderflow s.pc s⟩⟩

/-- Settles O42: the entry RET pops is the one CALL pushed, which is the pc at execute (R100, R101). -/
theorem returnUndoesCall : Obligations.ReturnUndoesCall := fun s nnn hsp => by
  refine ⟨_, exec_call_room s nnn ⟨s.sp.val, hsp⟩ rfl, fun u hu hstack => ?_⟩
  refine ⟨_, exec_ret_used u ⟨s.sp.val, hsp⟩ (congrArg Fin.val hu), ?_, rfl⟩
  rw [State.setPc_pc, hstack]
  simp

/-! ## RND -/

/-- A draw takes the next value the host has fixed and leaves the counter (R142). -/
theorem drawRnd_of_rndIn {s : State} {q : Byte} {qs : List Byte} (h : s.rndIn = q :: qs) :
    (drawRnd s).1 = q ∧ (drawRnd s).2.rndIn = qs ∧ (drawRnd s).2.fresh = s.fresh := by
  simp [drawRnd, h]

/-- A draw with no value fixed takes a free one and advances the counter (R142). -/
theorem drawRnd_of_rndIn_nil {s : State} (h : s.rndIn = []) :
    (drawRnd s).2.rndIn = [] ∧ (drawRnd s).2.fresh = s.fresh + 1 := by
  simp [drawRnd, h]

/-- Settles O45: the draw and then one write of the destination register (R142). -/
theorem randomIsMasked : Obligations.RandomIsMasked := fun s x nn => by
  have hx := reg_setReg_self (drawRnd s).2 x ((drawRnd s).1 &&& nn)
  refine ⟨_, (drawRnd s).1, exec_rnd s x nn, hx, fun k hk => ?_, fun q qs h => drawRnd_of_rndIn h, drawRnd_of_rndIn_nil,
    drawRnd_keysIn s, fun r hr => ?_, frameExcept_rnd s x _⟩
  · rw [hx, BitVec.getLsbD_and, hk, Bool.and_false]
  · rw [otherRegsKept_setReg _ x _ r hr, State.reg_drawRnd]

/-! ## CLS and the index register -/

/-- Settles O46: CLS is one replacement of the display (R150). -/
theorem clearBlanksTheDisplay : Obligations.ClearBlanksTheDisplay := fun s =>
  ⟨_, exec_cls s, Display.pixel_blank, rfl, frameExcept_showDisplay s _⟩

/-- Settles O49: both are one update of I, and the sum of words is the sum modulo 65536 (R160, R161). -/
theorem indexIsLoadedAndAdded : Obligations.IndexIsLoadedAndAdded := fun s nnn x =>
  ⟨⟨_, exec_ldI s nnn, toNat_zextAddr nnn, frameExcept_setIndex s _⟩,
    ⟨_, exec_addI s x, by rw [State.setIndex_index, BitVec.toNat_add, toNat_zextByte], frameExcept_setIndex s _⟩⟩

end Sys2Proof.Machine
end

section
/-!
PROOFS. DRW (spec/44_display.md R151 to R154).
-/

namespace Sys2Proof.Machine

/-! ## The sprite's pixels -/

theorem getD_spriteBytes (s : State) (n : Nibble) {i : Nat} (h : i < n.toNat) :
    (spriteBytes s n).getD i 0 = s.mem.read (s.index.toNat + i) := by
  simp [spriteBytes, List.getD_eq_getElem?_getD, h]

/-- The pixels the draw engine flips are those the sprite covers. -/
theorem mem_spritePixels_iff_covers (s : State) (cx cy : Byte) (n : Nibble) (r : Fin 32) (c : Fin 64) :
    (r, c) ∈ spritePixels cx.toNat cy.toNat 0 (spriteBytes s n) ↔ SpriteCovers s cx cy n r c := by
  have hlen : (spriteBytes s n).length = n.toNat := by simp [spriteBytes]
  rw [mem_spritePixels, SpriteCovers, hlen]
  refine exists_congr fun row => exists_congr fun col => and_congr_right fun hrow => ?_
  rw [getD_spriteBytes s n hrow, Nat.zero_add]

theorem nodup_spritePixels_spriteBytes (s : State) (cx cy : Byte) (n : Nibble) :
    (spritePixels cx.toNat cy.toNat 0 (spriteBytes s n)).Nodup :=
  nodup_spritePixels _ _ _ _ (by have := n.isLt; simp [spriteBytes]; omega)

theorem pixel_drawnSprite_of_covers {s : State} {x y : RegIdx} {n : Nibble} {r : Fin 32} {c : Fin 64}
    (h : SpriteCovers s (s.reg x) (s.reg y) n r c) : (drawnSprite s x y n).1.pixel r c = !s.disp.pixel r c := by
  rw [drawnSprite, drawPixels_pixel _ (nodup_spritePixels_spriteBytes ..),
    decide_eq_true ((mem_spritePixels_iff_covers ..).mpr h), Bool.xor_true]

theorem pixel_drawnSprite_of_not_covers {s : State} {x y : RegIdx} {n : Nibble} {r : Fin 32} {c : Fin 64}
    (h : ¬ SpriteCovers s (s.reg x) (s.reg y) n r c) : (drawnSprite s x y n).1.pixel r c = s.disp.pixel r c := by
  rw [drawnSprite, drawPixels_pixel _ (nodup_spritePixels_spriteBytes ..),
    decide_eq_false (mt (mem_spritePixels_iff_covers ..).mp h), Bool.xor_false]

/-- A collision is reported exactly when a covered pixel was set before (R153). -/
theorem hit_drawnSprite_iff (s : State) (x y : RegIdx) (n : Nibble) : (drawnSprite s x y n).2 = true ↔
    ∃ r c, SpriteCovers s (s.reg x) (s.reg y) n r c ∧ s.disp.pixel r c = true := by
  rw [drawnSprite, drawPixels_hit _ (nodup_spritePixels_spriteBytes ..), Bool.false_or, List.any_eq_true, Prod.exists]
  exact exists_congr fun r => exists_congr fun c => and_congr_left fun _ => mem_spritePixels_iff_covers s _ _ n r c

/-! ## The flag after a draw -/

theorem reg_draw_flag (s : State) (d : Display) (v : Byte) : ((s.showDisplay d).setFlag v).reg 15 = v := by
  rw [State.reg_setFlag, if_pos rfl]

theorem flagOf_eq_one_iff (c : Bool) : flagOf c = 1 ↔ c = true := by
  cases c <;> decide

theorem flagOf_eq_zero_iff (c : Bool) : flagOf c = 0 ↔ c = false := by
  cases c <;> decide

/-- Settles O47: no pixel is drawn twice, so each covered one is flipped once, and the flag is written last (R151, R153). -/
theorem drawXorsTheSprite : Obligations.DrawXorsTheSprite := fun s x y n h =>
  ⟨_, exec_drw_in s x y n h, fun _ _ => ⟨pixel_drawnSprite_of_covers, pixel_drawnSprite_of_not_covers⟩,
    fun hit => by rw [reg_draw_flag, flagOf_eq_one_iff, hit_drawnSprite_iff]; exact hit,
    fun hit => by rw [reg_draw_flag, flagOf_eq_zero_iff, ← Bool.not_eq_true, hit_drawnSprite_iff]; exact hit,
    rfl, otherRegsKept_setReg (s.showDisplay _) 15 _, frameExcept_draw s _ _⟩

/-! ## Drawing twice -/

/-- What a sprite covers depends on memory and I alone. -/
theorem spriteCovers_congr {s v : State} (hmem : agree .mem s v) (hi : v.index = s.index) (cx cy : Byte) (n : Nibble)
    (r : Fin 32) (c : Fin 64) : SpriteCovers v cx cy n r c ↔ SpriteCovers s cx cy n r c := by
  have hread : ∀ a, v.mem.read a = s.mem.read a := hmem
  simp only [SpriteCovers, hread, hi]

/-- Settles O48: the second draw covers the same pixels, so it flips each flipped pixel back, and a covered pixel that was clear
is set when it comes to it (R152). -/
theorem drawTwiceRestoresTheDisplay : Obligations.DrawTwiceRestoresTheDisplay := fun s x y n h => by
  refine ⟨_, exec_drw_in s x y n h, fun v hdisp hmem hi hx hy => ?_⟩
  have hcov (r : Fin 32) (c : Fin 64) :
      SpriteCovers v (v.reg x) (v.reg y) n r c ↔ SpriteCovers s (s.reg x) (s.reg y) n r c := by
    rw [hx, hy]; exact spriteCovers_congr hmem hi _ _ n r c
  have hv (r : Fin 32) (c : Fin 64) : v.disp.pixel r c = (drawnSprite s x y n).1.pixel r c := hdisp r c
  refine ⟨_, exec_drw_in v x y n (hi ▸ h), fun r c => ?_, fun hclear => ?_⟩
  · change (drawnSprite v x y n).1.pixel r c = s.disp.pixel r c
    by_cases hc : SpriteCovers s (s.reg x) (s.reg y) n r c
    · rw [pixel_drawnSprite_of_covers ((hcov r c).mpr hc), hv, pixel_drawnSprite_of_covers hc, Bool.not_not]
    · rw [pixel_drawnSprite_of_not_covers (mt (hcov r c).mp hc), hv, pixel_drawnSprite_of_not_covers hc]
  · rw [reg_draw_flag, flagOf_eq_one_iff, hit_drawnSprite_iff]
    refine exists_congr fun r => exists_congr fun c => ?_
    rw [hcov r c, and_iff_left_iff_imp]
    intro hc
    rw [hv, pixel_drawnSprite_of_covers hc, hclear r c hc, Bool.not_false]

end Sys2Proof.Machine
end

section
/-!
PROOFS. The stores and loads of a block, and the accesses that leave memory (spec/45_index_memory.md R164 to R166,
spec/20_memory.md R52).
-/

namespace Sys2Proof.Machine

/-- Settles O51: a block write of the three digits (R164). -/
theorem bcdStoresThreeDigits : Obligations.BcdStoresThreeDigits := fun s x h => by
  obtain ⟨m, he, -, hread⟩ := exec_ldB_in s x h
  have hdigit (k : Nat) :
      m.read (s.index.toNat + k) = (bcdDigits (s.reg x)).getD k (s.mem.read (s.index.toNat + k)) := by
    rw [hread, if_pos (by omega), Nat.add_sub_cancel_left]
  have hrest (a : Nat) (ha : a < s.index.toNat ∨ s.index.toNat + 2 < a) : m.read a = s.mem.read a := by
    rw [hread]
    split
    · exact List.getD_eq_default _ _ (by simp [bcdDigits]; omega)
    · rfl
  exact ⟨_, he, by simpa [bcdDigits] using congrArg BitVec.toNat (hdigit 0),
    by simpa [bcdDigits] using congrArg BitVec.toNat (hdigit 1),
    by simpa [bcdDigits] using congrArg BitVec.toNat (hdigit 2), hrest, frameExcept_setMem s m⟩

theorem reg_ofNat_toNat (s : State) (r : RegIdx) : s.reg (BitVec.ofNat 4 r.toNat) = s.reg r := by
  rw [BitVec.ofNat_toNat, BitVec.setWidth_eq]

/-- What a register dump within memory leaves in memory (R165). -/
theorem exec_dumpRegs_read (s : State) (x : RegIdx) (h : s.index.toNat + x.toNat ≤ 4095) :
    ∃ m : Memory, exec (.dumpRegs x) s = .next (s.setMem m) ∧
      (∀ r : RegIdx, r.toNat ≤ x.toNat → m.read (s.index.toNat + r.toNat) = s.reg r) ∧
      ∀ a, a < s.index.toNat ∨ s.index.toNat + x.toNat < a → m.read a = s.mem.read a := by
  obtain ⟨m, he, -, hread⟩ := exec_dumpRegs_in s x h
  refine ⟨m, he, fun r hr => ?_, fun a ha => ?_⟩
  · rw [hread, if_pos (by omega), Nat.add_sub_cancel_left, getD_blockRegs, if_pos hr, reg_ofNat_toNat]
  · rw [hread, getD_blockRegs]
    split
    · exact if_neg (by omega)
    · rfl

/-- Settles O52: a block write of the registers (R165). -/
theorem registerDumpStoresTheBlock : Obligations.RegisterDumpStoresTheBlock := fun s x h => by
  obtain ⟨m, he, hblock, hrest⟩ := exec_dumpRegs_read s x h
  exact ⟨_, he, hblock, hrest, frameExcept_setMem s m⟩

/-- What a register load within memory leaves in the registers (R166). -/
theorem reg_loaded (s : State) (x r : RegIdx) :
    (s.setRegsFrom 0 ((List.range (x.toNat + 1)).map fun i => s.mem.read (s.index.toNat + i))).reg r =
      if r.toNat ≤ x.toNat then s.mem.read (s.index.toNat + r.toNat) else s.reg r := by
  have := x.isLt
  rw [State.reg_setRegsFrom _ _ _ (by simp; omega), if_pos (Nat.zero_le _), Nat.sub_zero, List.getD_eq_getElem?_getD]
  split
  next h => simp [show r.toNat < x.toNat + 1 by omega]
  next h => simp [show ¬ r.toNat < x.toNat + 1 by omega]

/-- Settles O53: a block read into the registers (R166). -/
theorem registerLoadFillsTheBlock : Obligations.RegisterLoadFillsTheBlock := fun s x h =>
  ⟨_, exec_loadRegs_in s x h, fun r hr => (reg_loaded s x r).trans (if_pos hr),
    fun r hr => (reg_loaded s x r).trans (if_neg (by omega)), frameExcept_setRegsFrom s 0 _⟩

/-- Settles O54: the load reads the bytes that the dump wrote (R165, R166). -/
theorem registerLoadUndoesDump : Obligations.RegisterLoadUndoesDump := fun s x h => by
  obtain ⟨m, he, hblock, -⟩ := exec_dumpRegs_read s x h
  refine ⟨_, he, fun u hmem hi => ⟨_, exec_loadRegs_in u x (hi ▸ h), fun r hr => ?_⟩⟩
  rw [reg_loaded, if_pos hr, hmem, hi]
  exact hblock r hr

theorem raised_outOfBounds {s : State} {first : Word} (h : first = if 4095 < s.index.toNat then s.index else 0x1000) :
    Raised (raise (outOfBounds (max s.index.toNat 4096)) s) .outOfBoundsAccess 4 first := by
  rw [outOfBounds_max, ← h]
  exact raised_raise .outOfBoundsAccess first s

/-- Settles O55: each block access reports its first address out of range (R52, R53). -/
theorem blockOutsideMemoryRaises : Obligations.BlockOutsideMemoryRaises := fun s x y n _ hfirst =>
  ⟨fun h => ⟨_, exec_ldB_out s x h, raised_outOfBounds hfirst⟩,
    fun h => ⟨_, exec_dumpRegs_out s x h, raised_outOfBounds hfirst⟩,
    fun h => ⟨_, exec_loadRegs_out s x h, raised_outOfBounds hfirst⟩,
    fun hn h => ⟨_, exec_drw_out s x y n hn h, raised_outOfBounds hfirst⟩⟩

end Sys2Proof.Machine
end

section
/-!
PROOFS. Reset and the program loader (spec/10_state.md R35, spec/70_reset_and_hazards.md R200 to R203).
-/

namespace Sys2Proof.Machine

/-! ## Reset -/

theorem reset_reg (r : RegIdx) : State.reset.reg r = 0 := by
  simp [State.reg, State.reset]

theorem reset_stack (k : Fin 16) : State.reset.stack[k] = 0 := by
  simp [State.reset]

theorem frameExcept_assertReset (s : State) : FrameExcept [.settings, .inputs] State.reset (assertReset s) := by
  intro c hc
  cases c with
  | settings | inputs => simp at hc
  | regs | stack | disp | mem => exact fun _ => by simp [assertReset, State.reg]
  | _ => rfl

/-- Settles O7: each field of the reset state is written out in its definition (R35, R200). -/
theorem resetStateIsAllZeroButPc : Obligations.ResetStateIsAllZeroButPc :=
  ⟨reset_reg, rfl, rfl, rfl, reset_stack, rfl, rfl, rfl, Display.pixel_blank, fun _ => rfl, rfl, rfl, rfl, rfl, rfl, rfl,
    frameExcept_assertReset⟩

/-- Settles O8: memory is empty, pc is 0x200, the stack and the fault register are zero, and the controller is Running (R35). -/
theorem invariantsHoldAtReset : Obligations.InvariantsHoldAtReset :=
  ⟨reset_mem_wf, .inr ⟨by decide, fun k => by rw [reset_stack]; decide⟩, ⟨rfl, rfl⟩, fun _ => rfl⟩

/-! ## The loader -/

/-- The host's move places bytes that fit as a block write does (R64, R202). -/
theorem writeBytes_eq_placeBytes (s : State) (a : Nat) (bs : List Byte) (h : a + bs.length ≤ 4096) :
    writeBytes s a bs = .ok (placeBytes s a bs) := by
  induction bs generalizing s a with
  | nil => rfl
  | cons b bs ih =>
    simp only [List.length_cons] at h
    have ha : a < 4096 := by omega
    have hpoke : s.poke a b = s.setMem (s.mem.write a b) := if_pos ha
    simp only [writeBytes, memWrite_in s b ha, placeBytes, hpoke]
    exact ih _ (a + 1) (by omega)

/-- Settles O57: the image is placed as a block from 0x200 on (R202). -/
theorem loaderPlacesTheImage : Obligations.LoaderPlacesTheImage := fun s image h => by
  have hfit : 0x200 + image.length ≤ 4096 := by omega
  have hload : loadProgram image s = placeBytes s 0x200 image := if_pos (decide_eq_true h)
  obtain ⟨m, hw, -, hread⟩ := writeBytes_ok s 0x200 image hfit
  have hm : loadProgram image s = s.setMem m := by
    rw [hload]
    exact Except.ok.inj ((writeBytes_eq_placeBytes s 0x200 image hfit).symm.trans hw)
  rw [hm]
  exact ⟨fun a ha => (hread a).trans (if_pos ha), frameExcept_setMem s m, fun a ha => (hread a).trans (if_neg (by omega))⟩

/-- Settles O58: the loader takes the error, after which a step does nothing (R93, R203). -/
theorem oversizeImageRaises : Obligations.OversizeImageRaises := fun s image h => by
  have hload : loadProgram image s = raise ⟨.programTooLarge, 0⟩ s :=
    if_neg fun hf => absurd (of_decide_eq_true hf) (Nat.not_le.mpr h)
  rw [hload]
  exact ⟨raised_raise .programTooLarge 0 s, step_of_faulted (raise_run _ s)⟩

end Sys2Proof.Machine
end
